-- ==== Sys2Proof/Word.lean ====
section
/-! DEFINITION. The bit-vector widths of the spec (00_scope.md R9, R10). -/

namespace Sys2Proof

/-- A byte of a buffer or of a frame: `u8` of R10. -/
abbrev Byte := BitVec 8

/-- `u16` of R10: the checksum and the length field. -/
abbrev Half := BitVec 16

/-- `u24` of R10: a frame's three header bytes, the first on the wire in bits 23:16. -/
abbrev U24 := BitVec 24

/-- A host register word and a command word: `u32` of R10 and R17. -/
abbrev Word := BitVec 32

end Sys2Proof
end

