-- ==== Sys2Proof/Config.lean ====
section
/-! DEFINITION. The build parameters of 00_scope.md R6 to R8, which the spec leaves open (D2, D3), and the free values
that stand for the sequencer state the spec calls unspecified (10_state.md R37, 70_reset_and_hazards.md R103).
An `opaque` constant has no value a proof could use: a theorem that mentions one holds for every value of it. -/

namespace Sys2Proof.Config

/-- Parameter HEADER (R6): the three bytes H0 H1 H2 of the frame header, H0 in bits 23:16 (R28). Log entry 1. -/
opaque header : U24

/-- How far the build's IN_CAP lies above its lower bound: `0 ≤ IN_CAP - 65542 ≤ 2^32 - 1 - 65542` (R7). Log entry 2. -/
opaque inCapExtra : Fin 4294901754

/-- How far the build's OUT_CAP lies above its lower bound (R8). Log entry 2. -/
opaque outCapExtra : Nat

/-- The lower bound of both capacities, `3 + 2 + 65535 + 2` (R7): the largest frame. -/
def minCap : Nat := 65542

/-- Parameter IN_CAP (R7). -/
def inCap : Nat := minCap + inCapExtra.val

/-- Parameter OUT_CAP (R8). -/
def outCap : Nat := minCap + outCapExtra

/-- H0, the first header byte on the wire (R6). -/
def h0 : Byte := header.extractLsb' 16 8

/-- H1, the second header byte. -/
def h1 : Byte := header.extractLsb' 8 8

/-- H2, the third header byte. -/
def h2 : Byte := header.extractLsb' 0 8

/-- Free value: what TEMP holds after the n-th event that leaves it unspecified (R37, I6). Log entry 3. -/
opaque freeTemp : Nat → Half

/-- Free value: ACC, as `freeTemp`. -/
opaque freeAcc : Nat → Half

/-- Free value: the bit counter j, from 0 to 8 (R37), as `freeTemp`. -/
opaque freeBitIndex : Nat → Fin 9

/-- Free value: the byte index i, a u32 (R37), as `freeTemp`. -/
opaque freeByteIndex : Nat → Word

/-- Free value: PEND between operations and after a RESET event (R103, I6), as `freeTemp`. -/
opaque freePend : Nat → Word

/-- Free value: N_L, as `freePend`. -/
opaque freeLatchedLen : Nat → Word

end Sys2Proof.Config
end

