-- ==== Sys2Proof/Syntax.lean ====
section
/-! DEFINITION. The six operations of 30_encoding.md R58 (one constructor per row of spec/opcode_table.json) and the
operation statements of the assembler syntax of R69 and R70. -/

namespace Sys2Proof

/-- A codec operation (R58). The only operand a command word carries is CRC.BYTE's byte (R61); the buffer operand of the
last four is `IN[0..N)` of the state. -/
inductive Instr where
  | crcInit
  | crcByte (b : Byte)
  | crcBuf
  | frmEnc
  | frmDec
  | rspDec
  deriving DecidableEq, Repr

/-- The mnemonics of the assembler syntax (R69). -/
inductive Mnemonic where
  | crcInit | crcByte | crcBuf | frmEnc | frmDec | rspDec
  deriving DecidableEq, Repr

/-- An operation statement as written in a host program, before the assembler has checked it: a mnemonic with the
operand numbers that follow it (R70). -/
structure OpStatement where
  mnemonic : Mnemonic
  operands : List Nat
  deriving DecidableEq, Repr

/-- The three ways a command word names no operation (R59, the three bullets in order). -/
inductive IllegalWord where
  | reservedBitsSet
  | unlistedOp
  | strayOperand
  deriving DecidableEq, Repr

end Sys2Proof
end

