-- ==== Sys2Proof/Machine/State.lean ====
section
/-! DEFINITION. The state of the block and of its two agents (00_scope.md R15, 10_state.md, 20_memory.md R41 to R43), and its
value at reset (70_reset_and_hazards.md R103). -/

namespace Sys2Proof.Machine

/-- The model fault reasons of 60_exceptions.md R97: the host broke an interface rule, after which the hardware's behaviour is
not specified. A reason is recorded in FAULTS by the step that breaks the rule, and every later step answers it: the model
has no further step. Safe: the model stops where real hardware would go on. -/
inductive Fault where
  /-- Raised by a host access to REG at an unlisted offset or with a width other than 32 bits, and by a buffer access at or
  beyond IN_CAP or OUT_CAP or with a width other than a byte (R17, R42, R43, D4). Safe. -/
  | badAddress
  /-- Raised by a host read of a register or buffer byte that holds NOVALUE, and by an operation that reads an IN_BUF byte
  holding NOVALUE (R38). Safe. -/
  | noValueRead
  /-- Raised by a host access that R107 forbids while BUSY = 1. Safe. -/
  | hostHazard
  deriving DecidableEq, Repr

/-- Why a step could be refused. Nothing in this model refuses: every operation has its meaning and every word that names
none is IllegalOp, which is the block's own behaviour (30_encoding.md R60). -/
inductive Refusal where
  /-- An operation without a meaning, by its mnemonic. Raised by no arm. Safe. -/
  | notModelled (mnemonic : String)
  deriving DecidableEq, Repr

/-- The errors an operation can end in (60_exceptions.md R90). -/
inductive CodecError where
  | malformedFrame
  | illegalOp
  | lenRange
  deriving DecidableEq, Repr

/-- A register or a field that may hold NOVALUE (10_state.md R38): `none` IS the spec's NOVALUE, which the spec states as the
reset value of these cells; it is no stand-in for a reset value the spec does not give. -/
abbrev Cell (α : Type) := Option α

/-- A byte buffer (20_memory.md R41): the bytes that have been written since reset, by rising address. An address not listed
holds NOVALUE (R42, R43). -/
abbrev Memory := List Host.Cell

/-- The STATUS register, field by field (10_state.md R19). The reserved bits read 0 and have no storage. -/
structure Status where
  /-- [0] -/
  busy : Bool
  /-- [1] -/
  done : Bool
  /-- [2] -/
  err : Bool
  /-- [7:4] -/
  errcode : BitVec 4
  /-- [8] -/
  hdrOk : Bool
  /-- [9] -/
  lenOk : Bool
  /-- [10] -/
  crcOk : Bool
  /-- [12] -/
  oValid : Bool
  /-- [13] -/
  fValid : Bool
  /-- [14] -/
  rValid : Bool
  deriving DecidableEq, Repr

/-- The working registers of the sequencer that no result depends on (10_state.md R37). -/
structure Sequencer where
  /-- TEMP, u16. -/
  temp : Half
  /-- ACC, u16. -/
  acc : Half
  /-- j, the bit counter from 0 to 8. -/
  bitIndex : Fin 9
  /-- i, the u32 byte index. -/
  byteIndex : Word
  deriving DecidableEq, Repr

/-- The thirteen host registers (R17). -/
inductive Reg where
  | ctrl | status | inLen | crcAcc | outLen | hdrConst | fHdr | fLen | fCrc | rEcho | rWeight | rDiv | rStable
  deriving DecidableEq, Repr

/-- One host access to REG (an offset, a width in bits), to IN_BUF or to OUT_BUF (a byte address, a width in bits) (R17, R41 to
R43). Only 32 bits and 8 bits are widths the block has (R50, D4); the data of a write of another width has no effect. -/
inductive Access where
  | readReg (offset width : Nat)
  | writeReg (offset width : Nat) (w : Word)
  | readIn (a width : Nat)
  | writeIn (a width : Nat) (v : Byte)
  | readOut (a width : Nat)
  | writeOut (a width : Nat) (v : Byte)
  deriving DecidableEq, Repr

/-- What the host does in its turn (30_encoding.md R69, 70_reset_and_hazards.md R102). `copyFrom a n` is a COPYOUT that has read
OUT_LEN = n and has copied the bytes below a. -/
inductive HostStmt where
  | access (x : Access)
  | reset
  | wait
  | copyOut
  | copyFrom (a n : Nat)
  deriving DecidableEq, Repr

/-- The two agents (00_scope.md R15). -/
inductive Agent where
  | host
  | codec
  deriving DecidableEq, Repr

/-- A value the host has read, as the program's trace records it (R69). -/
inductive Observation where
  | reg (r : Reg) (w : Word)
  | inByte (a : Nat) (v : Byte)
  | outByte (a : Nat) (v : Byte)
  deriving DecidableEq, Repr

/-- A frame split into its fields (00_scope.md R14, the source's Frame record). -/
structure Frame where
  header : U24
  length : Half
  payload : List Byte
  /-- The checksum field, as received. -/
  check : Half
  deriving DecidableEq, Repr

/-- The fields of a weight response's payload, raw (30_encoding.md R65, R66). -/
structure WeightRecord where
  echo : Byte
  weight : Word
  division : Byte
  stable : Byte
  deriving DecidableEq, Repr

/-- The typed Reading (42_record_parser.md R87). -/
structure Reading where
  weightValue : Int
  divisionValue : Int
  stable : Byte
  deriving DecidableEq, Repr

/-- The state. HDR_CONST is no field: it is the parameter HEADER and never changes (10_state.md R28). -/
structure State where
  /-- CTRL, the last command word written (R18). -/
  ctrl : Word
  /-- STATUS (R19). -/
  status : Status
  /-- IN_LEN (R25). -/
  inLen : Word
  /-- CRC_ACC (R26). -/
  crcAcc : Half
  /-- OUT_LEN (R27). -/
  outLen : Cell Word
  /-- F_HDR (R29). -/
  fHdr : Cell U24
  /-- F_LEN (R30). -/
  fLen : Cell Half
  /-- F_CRC (R31). -/
  fCrc : Cell Half
  /-- R_ECHO (R32). -/
  rEcho : Cell Byte
  /-- R_WEIGHT (R33). -/
  rWeight : Cell Word
  /-- R_DIV (R34). -/
  rDiv : Cell Byte
  /-- R_STABLE (R36). -/
  rStable : Cell Byte
  /-- IN_BUF (R42). -/
  inBuf : Memory
  /-- OUT_BUF (R43). -/
  outBuf : Memory
  /-- PEND, the command word latched (R18, R37). -/
  pend : Word
  /-- N_L, IN_LEN latched at the command (R25, R37). -/
  latchedLen : Word
  /-- TEMP, ACC, j and i (R37). -/
  seq : Sequencer
  /-- FAULTS, the reasons recorded, no reason twice (R39). -/
  faults : List Fault
  /-- The model's own: how many free values have been drawn (log entry 3). -/
  freeCount : Nat
  /-- The host agent: the statements it has yet to run (R15, R69; log entry 4). -/
  program : List HostStmt
  /-- The interleaving: which agent takes the next turns (R16, R108; log entry 4). -/
  turns : List Agent
  /-- The host agent: the values its reads returned, oldest first (R69). -/
  trace : List Observation
  deriving DecidableEq, Repr

/-- STATUS at reset, 0x00000000 (R103). -/
def Status.reset : Status :=
  { busy := false, done := false, err := false, errcode := 0, hdrOk := false, lenOk := false, crcOk := false,
    oValid := false, fValid := false, rValid := false }

/-- The machine right after reset (R103). PEND, N_L and the sequencer registers are unspecified there; their zeros, the
zero of the model's own counter and the empty host side are choices of the model (log entries 3 and 4). -/
def State.reset : State :=
  { ctrl := 0
    status := Status.reset
    inLen := 0
    crcAcc := 0
    outLen := none
    fHdr := none
    fLen := none
    fCrc := none
    rEcho := none
    rWeight := none
    rDiv := none
    rStable := none
    inBuf := []
    outBuf := []
    pend := 0
    latchedLen := 0
    seq := { temp := 0, acc := 0, bitIndex := 0, byteIndex := 0 }
    faults := []
    freeCount := 0
    program := []
    turns := []
    trace := [] }

end Sys2Proof.Machine
end

