-- ==== Sys2Proof/Machine/Flags.lean ====
section
/-! DEFINITION. STATUS: how each field is computed and written (10_state.md R19 to R24, 60_exceptions.md R90 to R92). -/

namespace Sys2Proof.Machine

/-- A field of a register word, its least significant bit at bit `lo`. -/
def fieldAt {n : Nat} (lo : Nat) (v : BitVec n) : Word := v.setWidth 32 <<< lo

/-- A one-bit field. -/
def bitAt (lo : Nat) (b : Bool) : Word := fieldAt lo (BitVec.ofBool b)

/-- The word a read of STATUS returns, with the layout of R19: the reserved bits [31:15], [11] and [3] read 0. -/
def Status.word (st : Status) : Word :=
  bitAt 0 st.busy ||| bitAt 1 st.done ||| bitAt 2 st.err ||| fieldAt 4 st.errcode ||| bitAt 8 st.hdrOk
    ||| bitAt 9 st.lenOk ||| bitAt 10 st.crcOk ||| bitAt 12 st.oValid ||| bitAt 13 st.fValid ||| bitAt 14 st.rValid

/-- ERRCODE of an error (R90). -/
def CodecError.code : CodecError → BitVec 4
  | .malformedFrame => 1
  | .illegalOp => 2
  | .lenRange => 3

/-- What a command does to STATUS (R20): the check and valid bits stay until completion. -/
def Status.started (st : Status) : Status :=
  { st with busy := true, done := false, err := false, errcode := 0 }

/-- The fields every successful completion writes alike (R91, R21, R22). -/
def Status.succeeded (st : Status) : Status :=
  { st with busy := false, done := true, err := false, errcode := 0 }

/-- The three check bits (R23). -/
def Status.withChecks (st : Status) (hdr len crc : Bool) : Status :=
  { st with hdrOk := hdr, lenOk := len, crcOk := crc }

/-- The three valid bits (R24). -/
def Status.withValid (st : Status) (o f r : Bool) : Status :=
  { st with oValid := o, fValid := f, rValid := r }

/-- Whether an operation is one of FRM.ENC, FRM.DEC and RSP.DEC, whose errors clear the valid bits (R24, R92). -/
def clearsValidOnError : Instr → Bool
  | .crcInit => false
  | .crcByte _ => false
  | .crcBuf => false
  | .frmEnc => true
  | .frmDec => true
  | .rspDec => true

/-- Whether an error clears the valid bits (R92): it is not IllegalOp, and it is raised by one of the frame operations. -/
def clearsValid (e : CodecError) (op : Option Instr) : Bool := e != .illegalOp && op.any clearsValidOnError

/-- What an error completion does to STATUS (R92), for the operation `op` that raised `e` (none for a word that names no
operation). -/
def Status.failed (st : Status) (e : CodecError) (op : Option Instr) : Status :=
  let keep := !clearsValid e op
  { busy := false, done := true, err := true, errcode := e.code, hdrOk := false, lenOk := false, crcOk := false,
    oValid := st.oValid && keep, fValid := st.fValid && keep, rValid := st.rValid && keep }

end Sys2Proof.Machine
end

