-- ==== Sys2Proof/Machine/Ops.lean ====
section
/-! DEFINITION. The operations every meaning shares: the byte buffers (20_memory.md), a command (10_state.md R18, R20), the two
completions (60_exceptions.md R91, R92), a model fault (R97) and the RESET event (70_reset_and_hazards.md R102 to R105).
An error is reported, not trapped: it saves nothing and transfers no control (R89), and there is no return operation (R95). -/

namespace Sys2Proof.Machine

/-! ### The byte buffers -/

/-- The canonical form of a buffer: its listed addresses strictly rise. No entry can equal what an unlisted address reads as,
which is NOVALUE and no byte. -/
abbrev Memory.wf (m : Memory) : Prop := m.Pairwise (fun x y => x.1 < y.1)

/-- The byte at address `a`, or NOVALUE. -/
def Memory.read (m : Memory) (a : Nat) : Cell Byte := m.lookup a

/-- `IN[a] <- v` (R42). -/
def Memory.write : Memory → Nat → Byte → Memory
  | [], a, v => [(a, v)]
  | (k, b) :: m, a, v =>
    if a < k then (a, v) :: (k, b) :: m
    else if a = k then (a, v) :: m
    else (k, b) :: Memory.write m a v

/-- The bytes `m[a..a+n)`, or NOVALUE if one of them holds NOVALUE (R38). -/
def Memory.readRange (m : Memory) (a : Nat) : Nat → Cell (List Byte)
  | 0 => some []
  | n + 1 => do
    let b ← m.read a
    let bs ← m.readRange (a + 1) n
    return b :: bs

/-- Bytes laid out from an address up. -/
def cellsFrom : Nat → List Byte → Memory
  | _, [] => []
  | a, b :: bs => (a, b) :: cellsFrom (a + 1) bs

/-- `m[a..a+len(bs)) <- bs`: every other byte stays. -/
def Memory.writeRange (m : Memory) (a : Nat) (bs : List Byte) : Memory :=
  m.filter (fun c => c.1 < a) ++ (cellsFrom a bs ++ m.filter (fun c => a + bs.length ≤ c.1))

/-! ### Commands and completions -/

/-- A command (R18, R20, R25): the host writes `w` to CTRL while BUSY = 0. -/
def State.command (w : Word) (s : State) : State :=
  { s with ctrl := w, pend := w, latchedLen := s.inLen, status := s.status.started }

/-- The sequencer's registers with the values nothing constrains (R37). -/
def unspecifiedSequencer (n : Nat) : Sequencer :=
  { temp := Config.freeTemp n, acc := Config.freeAcc n, bitIndex := Config.freeBitIndex n,
    byteIndex := Config.freeByteIndex n }

/-- The internal state takes the next free values: between operations and after RESET, PEND, N_L, TEMP, ACC, j and i hold any
value (R37, R103, 93_implementation_defined.md I6; log entry 3). -/
def State.forgetInternal (s : State) : State :=
  { s with
    pend := Config.freePend s.freeCount
    latchedLen := Config.freeLatchedLen s.freeCount
    seq := unspecifiedSequencer s.freeCount
    freeCount := s.freeCount + 1 }

/-- A completion leaves `st` in STATUS, and the internal state unspecified. -/
def State.complete (st : Status) (s : State) : State := { s with status := st }.forgetInternal

/-- Success completion (R91) of an operation that writes 0 to the check bits and leaves the valid bits (the CRC.* rows of
R23 and R24). -/
def State.succeedKeeping (s : State) : State :=
  s.complete (s.status.succeeded.withChecks false false false)

/-- Success completion (R91) of a frame operation, with its check bits (R23) and its row of R24. -/
def State.succeedWith (hdr len crc : Bool) (o f r : Bool) (s : State) : State :=
  s.complete ((s.status.succeeded.withChecks hdr len crc).withValid o f r)

/-- Error completion (R92): `raise e` in the operation `op` (none: the word names no operation). -/
def State.raise (e : CodecError) (op : Option Instr) (s : State) : State :=
  s.complete (s.status.failed e op)

/-! ### Model faults and RESET -/

/-- A reason added to FAULTS, a set (R39). -/
def addFault (fs : List Fault) (r : Fault) : List Fault := if r ∈ fs then fs else fs ++ [r]

/-- A model fault adds its reason to FAULTS (R97). Nothing else is written: what the hardware does is not specified, and the
model has no further step. -/
def State.modelFault (r : Fault) (s : State) : State := { s with faults := addFault s.faults r }

/-- The RESET event (R102 to R105): every piece of the block's state takes its reset value, a pending operation is abandoned,
and FAULTS stays. The internal state is unspecified, so it takes free values. The host agent is not part of the block. -/
def State.resetEvent (s : State) : State :=
  State.forgetInternal { State.reset with
    freeCount := s.freeCount
    faults := s.faults
    program := s.program
    turns := s.turns
    trace := s.trace }

end Sys2Proof.Machine
end

