-- ==== Sys2Proof/Machine/Operands.lean ====
section
/-! DEFINITION. The operand forms: the buffer operand `IN[0..N)` and its bounds (30_encoding.md R61), and the fields of the wire
frames with their byte orders (00_scope.md R11, 20_memory.md R44 to R48, 30_encoding.md R62 to R66). -/

namespace Sys2Proof.Machine

/-! ### Byte orders -/

/-- `BE16(x, y)` (R11): the first byte is the most significant. -/
def be16 (x y : Byte) : Half := (x.setWidth 16 <<< 8) ||| y.setWidth 16

/-- `LE32(a, b, c, d)` (R11): the first byte is the least significant. -/
def le32 (a b c d : Byte) : Word :=
  a.setWidth 32 ||| (b.setWidth 32 <<< 8) ||| (c.setWidth 32 <<< 16) ||| (d.setWidth 32 <<< 24)

/-- `bytesBE16(v)` (R11). -/
def bytesBE16 (v : Half) : List Byte := [v.extractLsb' 8 8, v.extractLsb' 0 8]

/-- Three header bytes as a u24, `x << 16 | y << 8 | z` (R65). -/
def u24 (x y z : Byte) : U24 := (x.setWidth 24 <<< 16) ||| (y.setWidth 24 <<< 8) ||| z.setWidth 24

/-! ### Bounds of the buffers -/

/-- `n > IN_CAP` (R25, R90). Written so that a number no larger than the bound's fixed part is judged without the
parameter; `exceedsInCap_iff` says that it is `Config.inCap < n`. -/
def exceedsInCap (n : Nat) : Bool :=
  decide (Config.minCap < n) && decide (Config.inCapExtra.val < n - Config.minCap)

/-- `a >= IN_CAP` (R42). -/
def outsideIn (a : Nat) : Bool :=
  decide (Config.minCap ≤ a) && decide (Config.inCapExtra.val ≤ a - Config.minCap)

/-- `a >= OUT_CAP` (R43). -/
def outsideOut (a : Nat) : Bool :=
  decide (Config.minCap ≤ a) && decide (Config.outCapExtra ≤ a - Config.minCap)

/-! ### The operand and the fields of a frame -/

/-- The latched operand length N = N_L (R25). -/
def State.operandLen (s : State) : Nat := s.latchedLen.toNat

/-- The buffer operand `IN[0..N)` (R42, R61), or NOVALUE if one of its bytes holds NOVALUE. -/
def State.operand (s : State) : Cell (List Byte) := s.inBuf.readRange 0 s.operandLen

/-- The u16 field at `a`, big-endian: lengths and checksums (R45, R46, R48). -/
def Memory.readBE16 (m : Memory) (a : Nat) : Cell Half := do
  let x ← m.read a
  let y ← m.read (a + 1)
  return be16 x y

/-- The header at `a` (R65). -/
def Memory.readU24 (m : Memory) (a : Nat) : Cell U24 := do
  let x ← m.read a
  let y ← m.read (a + 1)
  let z ← m.read (a + 2)
  return u24 x y z

/-- The s32 field at `a`, little-endian: the weight (R47). -/
def Memory.readLE32 (m : Memory) (a : Nat) : Cell Word := do
  let b0 ← m.read a
  let b1 ← m.read (a + 1)
  let b2 ← m.read (a + 2)
  let b3 ← m.read (a + 3)
  return le32 b0 b1 b2 b3

/-- The frame at address 0 whose payload has `n` bytes (R64): header at 0, length field at 3, payload at 5, checksum right after
the payload. -/
def Memory.frameAt (m : Memory) (n : Nat) : Cell Frame := do
  let header ← m.readU24 0
  let length ← m.readBE16 3
  let payload ← m.readRange 5 n
  let check ← m.readBE16 (5 + n)
  return { header, length, payload, check }

/-- The record in the payload of a weight response (R65): echo at 5, weight at 6..9, division at 10, stable at 11. -/
def Memory.recordAt (m : Memory) : Cell WeightRecord := do
  let echo ← m.read 5
  let weight ← m.readLE32 6
  let division ← m.read 10
  let stable ← m.read 11
  return { echo, weight, division, stable }

/-- The three bytes of HEADER in wire order (R6). -/
def headerBytes : List Byte := [Config.h0, Config.h1, Config.h2]

end Sys2Proof.Machine
end

