-- ==== Sys2Proof/Machine/Checksum.lean ====
section
/-! DEFINITION. The Checksum Engine (40_checksum.md R71 to R75) and the operations CRC.INIT, CRC.BYTE and CRC.BUF (R77 to R79). -/

namespace Sys2Proof.Machine

/-- The polynomial 0x1021 (R9, R72). -/
def poly : Half := 0x1021

/-- One iteration's new ACC (R72): the branch tests the top bit of `TEMP ^ ACC`. -/
def nextAcc (temp acc : Half) : Half :=
  if (temp ^^^ acc).msb then (acc <<< 1) ^^^ poly else acc <<< 1

/-- ACC after `n` iterations of R72's loop from the given TEMP and ACC. -/
def engineLoop : Nat → Half → Half → Half
  | 0, _, acc => acc
  | n + 1, temp, acc => engineLoop n (temp <<< 1) (nextAcc temp acc)

/-- The byte step `step(crc, b)` (R72). -/
def crcStep (crc : Half) (b : Byte) : Half :=
  engineLoop 8 (crc &&& 0xFF00) 0 ^^^ (crc <<< 8) ^^^ b.setWidth 16

/-- The reduction term `T(h)` (R73). -/
def reductionTerm (h : Byte) : Half := engineLoop 8 ((h.setWidth 16) <<< 8) 0

/-- `checksum(s)` (R74). -/
def checksum (s : List Byte) : Half := s.foldl crcStep 0

/-- CRC.INIT (R77). -/
def execCrcInit (s : State) : Host.Outcome State Fault Refusal :=
  .next { s with crcAcc := 0 }.succeedKeeping

/-- CRC.BYTE b (R78). -/
def execCrcByte (b : Byte) (s : State) : Host.Outcome State Fault Refusal :=
  .next { s with crcAcc := crcStep s.crcAcc b }.succeedKeeping

/-- CRC.BUF (R79). -/
def execCrcBuf (s : State) : Host.Outcome State Fault Refusal :=
  if exceedsInCap s.operandLen then .next (s.raise .lenRange (some .crcBuf))
  else
    match s.operand with
    | none => .next (s.modelFault .noValueRead)
    | some bytes => .next { s with crcAcc := checksum bytes }.succeedKeeping

end Sys2Proof.Machine
end

