-- ==== Sys2Proof/Machine/FrameCodec.lean ====
section
/-! DEFINITION. The Frame Codec: FRM.ENC (41_frame_codec.md R80) and FRM.DEC (R82, R83). -/

namespace Sys2Proof.Machine

/-- The request frame of a command (30_encoding.md R62): header, big-endian length, the command, and the checksum of the command
alone, most significant byte first. -/
def encodeFrame (cmd : List Byte) : List Byte :=
  headerBytes ++ bytesBE16 (BitVec.ofNat 16 cmd.length) ++ cmd ++ bytesBE16 (checksum cmd)

/-- `OUT[0..len(bs)) <- bs` and OUT_LEN (R27, R43). -/
def State.storeResult (bs : List Byte) (s : State) : State :=
  { s with outBuf := s.outBuf.writeRange 0 bs, outLen := some (BitVec.ofNat 32 bs.length) }

/-- The registers a decoded frame is left in (R29 to R31), and the checksum recomputed over its payload alone (R26, D23). -/
def State.loadFrame (f : Frame) (s : State) : State :=
  { s with fHdr := some f.header, fLen := some f.length, fCrc := some f.check, crcAcc := checksum f.payload }

/-- HDR_OK of a decode (R83, R86): the header is HDR_CONST. -/
def Frame.headerOk (f : Frame) : Bool := f.header == Config.header

/-- CRC_OK of a decode (R83, R86): the received checksum is the recomputed one. -/
def Frame.checksumOk (f : Frame) : Bool := f.check == checksum f.payload

/-- FRM.ENC (R80). -/
def execFrmEnc (s : State) : Host.Outcome State Fault Refusal :=
  if exceedsInCap s.operandLen then .next (s.raise .lenRange (some .frmEnc))
  else if 65535 < s.operandLen then .next (s.raise .lenRange (some .frmEnc))
  else
    match s.operand with
    | none => .next (s.modelFault .noValueRead)
    | some cmd =>
      .next ({ s with crcAcc := checksum cmd }.storeResult (encodeFrame cmd) |>.succeedWith false false false true false false)

/-- FRM.DEC (R82). It reads the length field only when `N >= 7`, and the other bytes only when the length field agrees with
the byte count. A wrong header or checksum is no error (D9): the check bits report it. -/
def execFrmDec (s : State) : Host.Outcome State Fault Refusal :=
  if exceedsInCap s.operandLen then .next (s.raise .lenRange (some .frmDec))
  else if s.operandLen < 7 then .next (s.raise .malformedFrame (some .frmDec))
  else
    match s.inBuf.readBE16 3 with
    | none => .next (s.modelFault .noValueRead)
    | some len =>
      if len.toNat ≠ s.operandLen - 7 then .next (s.raise .malformedFrame (some .frmDec))
      else
        match s.inBuf.frameAt len.toNat with
        | none => .next (s.modelFault .noValueRead)
        | some f =>
          .next ((s.loadFrame f).storeResult f.payload |>.succeedWith f.headerOk true f.checksumOk true true false)

end Sys2Proof.Machine
end

