-- ==== Sys2Proof/Machine/RecordParser.lean ====
section
/-! DEFINITION. The fixed-width record parser RSP.DEC (42_record_parser.md R85, R86) and the Reading (R87). -/

namespace Sys2Proof.Machine

/-- The registers a weight record is left in, raw (R32 to R34, R36, R66). -/
def State.loadRecord (r : WeightRecord) (s : State) : State :=
  { s with rEcho := some r.echo, rWeight := some r.weight, rDiv := some r.division, rStable := some r.stable }

/-- The payload of a weight response is 7 bytes, its frame 14 (R65). -/
def responsePayloadLen : Nat := 7

/-- LEN_OK of RSP.DEC (R86). -/
def Frame.responseLengthOk (f : Frame) : Bool := f.length == 7

/-- RSP.DEC (R85). Only the byte count can make a frame malformed (D9). -/
def execRspDec (s : State) : Host.Outcome State Fault Refusal :=
  if exceedsInCap s.operandLen then .next (s.raise .lenRange (some .rspDec))
  else if s.operandLen ≠ 14 then .next (s.raise .malformedFrame (some .rspDec))
  else
    match s.inBuf.frameAt responsePayloadLen, s.inBuf.recordAt with
    | some f, some r =>
      .next ((s.loadFrame f).loadRecord r |>.succeedWith f.headerOk f.responseLengthOk f.checksumOk false true true)
    | _, _ => .next (s.modelFault .noValueRead)

/-- The Reading Decoder (R87): the Reading that the registers hold, which exists only while R_VALID = 1. -/
def State.reading (s : State) : Option Reading :=
  if s.status.rValid then do
    let w ← s.rWeight
    let d ← s.rDiv
    let st ← s.rStable
    return { weightValue := w.toInt, divisionValue := d.toInt, stable := st }
  else none

end Sys2Proof.Machine
end

