-- ==== Sys2Proof/Machine/Dispatch.lean ====
section
/-! DEFINITION. One arm per operation of 30_encoding.md R58. -/

namespace Sys2Proof.Machine

def exec (i : Instr) (s : State) : Host.Outcome State Fault Refusal :=
  match i with
  | .crcInit => Sys2Proof.Machine.execCrcInit s
  | .crcByte b => Sys2Proof.Machine.execCrcByte b s
  | .crcBuf => Sys2Proof.Machine.execCrcBuf s
  | .frmEnc => Sys2Proof.Machine.execFrmEnc s
  | .frmDec => Sys2Proof.Machine.execFrmDec s
  | .rspDec => Sys2Proof.Machine.execRspDec s

end Sys2Proof.Machine
end

