-- ==== Sys2Proof/WellFormed.lean ====
section
/-! DEFINITION. What the assembler accepts (30_encoding.md R70). -/

namespace Sys2Proof

/-- How many operands a mnemonic takes: `CRC.BYTE` one, the other five none (R70). -/
def Mnemonic.arity : Mnemonic → Nat
  | .crcInit => 0
  | .crcByte => 1
  | .crcBuf => 0
  | .frmEnc => 0
  | .frmDec => 0
  | .rspDec => 0

/-- R70: the statement has the operands its mnemonic takes, each a byte, `0..255`. -/
def OpStatement.wellFormed (o : OpStatement) : Bool :=
  o.operands.length == o.mnemonic.arity && o.operands.all (fun n => n ≤ 255)

/-- An operation as syntax is well-formed whatever it holds: the one operand, CRC.BYTE's, is a `u8` by its type and every
byte is legal (R61, R78: "Every b is legal"). -/
def Instr.wellFormed : Instr → Bool
  | .crcInit => true
  | .crcByte _ => true
  | .crcBuf => true
  | .frmEnc => true
  | .frmDec => true
  | .rspDec => true

end Sys2Proof
end

