-- ==== Sys2Proof/Decode.lean ====
section
/-! DEFINITION. The command word: its fields (30_encoding.md R57), the operation map (R58), the words that name no
operation (R59, R60), the encoder, and the assembler of R70. -/

namespace Sys2Proof

/-- Field OP, bits 7:0 (R57). -/
def opField (w : Word) : Byte := w.extractLsb' 0 8

/-- Field IMM8, bits 15:8 (R57). -/
def imm8Field (w : Word) : Byte := w.extractLsb' 8 8

/-- Field RSV, bits 31:16 (R57). -/
def rsvField (w : Word) : Half := w.extractLsb' 16 16

/-- The command word with the given OP and IMM8 and RSV = 0 (R57). -/
def commandWord (imm8 op : Byte) : Word := (imm8.setWidth 32 <<< 8) ||| op.setWidth 32

/-- Operation code of CRC.INIT (R58). -/
def opCrcInit : Byte := 0x01
/-- Operation code of CRC.BYTE (R58). -/
def opCrcByte : Byte := 0x02
/-- Operation code of CRC.BUF (R58). -/
def opCrcBuf : Byte := 0x03
/-- Operation code of FRM.ENC (R58). -/
def opFrmEnc : Byte := 0x10
/-- Operation code of FRM.DEC (R58). -/
def opFrmDec : Byte := 0x11
/-- Operation code of RSP.DEC (R58). -/
def opRspDec : Byte := 0x20

/-- The operations that take no IMM8 operand, by OP (R58). -/
def opWithoutOperand (op : Byte) : Option Instr :=
  if op = opCrcInit then some .crcInit
  else if op = opCrcBuf then some .crcBuf
  else if op = opFrmEnc then some .frmEnc
  else if op = opFrmDec then some .frmDec
  else if op = opRspDec then some .rspDec
  else none

/-- The decode of a command word, total on every word (R58 to R60): one of the six operations, or the reason why the word
is IllegalOp. -/
def decode (w : Word) : Except IllegalWord Instr :=
  if rsvField w ≠ 0 then .error .reservedBitsSet
  else if opField w = opCrcByte then .ok (.crcByte (imm8Field w))
  else
    match opWithoutOperand (opField w) with
    | none => .error .unlistedOp
    | some i => if imm8Field w = 0 then .ok i else .error .strayOperand

/-- The command word of an operation (the pseudo-instruction table of R69). -/
def encode : Instr → Word
  | .crcInit => commandWord 0 opCrcInit
  | .crcByte b => commandWord b opCrcByte
  | .crcBuf => commandWord 0 opCrcBuf
  | .frmEnc => commandWord 0 opFrmEnc
  | .frmDec => commandWord 0 opFrmDec
  | .rspDec => commandWord 0 opRspDec

/-- The assembler of R70: the operation a statement stands for, or a refusal of a statement outside the syntax. -/
def assemble (o : OpStatement) : Option Instr :=
  if o.wellFormed then
    match o.mnemonic with
    | .crcInit => some .crcInit
    | .crcByte => o.operands.head?.map (fun n => .crcByte (BitVec.ofNat 8 n))
    | .crcBuf => some .crcBuf
    | .frmEnc => some .frmEnc
    | .frmDec => some .frmDec
    | .rspDec => some .rspDec
  else none

/-- The command word with the bits of `w` up to `nbits`, the bits above being 0. A command is one 32-bit word, written to
CTRL whole, so no byte order enters (R44, R57). -/
def tableWord (nbits w : Nat) : Word := BitVec.ofNat 32 (w % 2 ^ nbits)

/-- The instruction the decoder reads from a row of spec/opcode_table.json. A number that needs more than 32 bits is no
command word. -/
def decodeTableWord (nbits w : Nat) : Option Instr :=
  if w % 2 ^ nbits < 2 ^ 32 then (decode (tableWord nbits w)).toOption else none

end Sys2Proof
end

