-- ==== Sys2Proof/Machine/HostPort.lean ====
section
/-! DEFINITION. The host agent: its accesses to the three spaces (10_state.md R17, 20_memory.md R41 to R43, R49 to R51), the rules
it must keep (70_reset_and_hazards.md R107, R110), and its programs (30_encoding.md R69). -/

namespace Sys2Proof.Machine

/-! ### Registers -/

/-- Byte offset of a register (R17). -/
def Reg.offset : Reg → Nat
  | .ctrl => 0x00
  | .status => 0x04
  | .inLen => 0x08
  | .crcAcc => 0x0C
  | .outLen => 0x10
  | .hdrConst => 0x14
  | .fHdr => 0x18
  | .fLen => 0x1C
  | .fCrc => 0x20
  | .rEcho => 0x24
  | .rWeight => 0x28
  | .rDiv => 0x2C
  | .rStable => 0x30

/-- The thirteen registers in the order of their offsets (R17). -/
def Reg.all : List Reg :=
  [.ctrl, .status, .inLen, .crcAcc, .outLen, .hdrConst, .fHdr, .fLen, .fCrc, .rEcho, .rWeight, .rDiv, .rStable]

/-- The register that a 32-bit access at an offset names; any other offset or width names none (R17). -/
def Reg.at (offset width : Nat) : Option Reg :=
  if width = 32 then Reg.all.find? (fun r => r.offset == offset) else none

/-- The registers the host may read while BUSY = 1 (R107). -/
def Reg.readableWhileBusy : Reg → Bool
  | .ctrl | .status | .inLen | .hdrConst => true
  | .crcAcc | .outLen | .fHdr | .fLen | .fCrc | .rEcho | .rWeight | .rDiv | .rStable => false

/-- What a cell reads as under its valid bit (R24, R38): NOVALUE while the bit is 0. The bits above the cell's width read 0
(R17). -/
def guarded {n : Nat} (valid : Bool) (c : Cell (BitVec n)) : Cell Word :=
  if valid then c.map (fun v => v.setWidth 32) else none

/-- What a read of a register returns, or NOVALUE (R17 to R36). -/
def State.regValue (r : Reg) (s : State) : Cell Word :=
  match r with
  | .ctrl => some s.ctrl
  | .status => some s.status.word
  | .inLen => some s.inLen
  | .crcAcc => some (s.crcAcc.setWidth 32)
  | .outLen => guarded s.status.oValid s.outLen
  | .hdrConst => some (Config.header.setWidth 32)
  | .fHdr => guarded s.status.fValid s.fHdr
  | .fLen => guarded s.status.fValid s.fLen
  | .fCrc => guarded s.status.fValid s.fCrc
  | .rEcho => guarded s.status.rValid s.rEcho
  | .rWeight => guarded s.status.rValid s.rWeight
  | .rDiv => guarded s.status.rValid s.rDiv
  | .rStable => guarded s.status.rValid s.rStable

/-- What a read of OUT_BUF byte `a` returns, or NOVALUE (R43): a value only while O_VALID = 1 and `a < OUT_LEN`. -/
def State.outByte (a : Nat) (s : State) : Cell Byte :=
  if s.status.oValid then
    match s.outLen with
    | some n => if a < n.toNat then s.outBuf.read a else none
    | none => none
  else none

/-! ### The rules an access can break -/

/-- The access names a cell that exists, at the width its space has (R17, R42, R43, R50): word-only registers and byte-only
buffers, and any other access is BadAddress (D4). -/
def Access.addressExists : Access → Bool
  | .readReg o w => (Reg.at o w).isSome
  | .writeReg o w _ => (Reg.at o w).isSome
  | .readIn a w => w == 8 && !outsideIn a
  | .writeIn a w _ => w == 8 && !outsideIn a
  | .readOut a w => w == 8 && !outsideOut a
  | .writeOut a w _ => w == 8 && !outsideOut a

/-- The accesses R107 allows while BUSY = 1: "read an IN_BUF byte" is a byte read of that space. DESIGN CHOICE (log entry 12): one at
or beyond IN_CAP, where R41 has no byte, counts as such a read here, so while BUSY = 1 it is BadAddress and not HostHazard too. -/
def Access.allowedWhileBusy : Access → Bool
  | .readReg o w => (Reg.at o w).any Reg.readableWhileBusy
  | .readIn _ w => w == 8
  | .writeReg _ _ _ | .writeIn _ _ _ | .readOut _ _ | .writeOut _ _ _ => false

/-- The access reads an existing cell that holds NOVALUE (R38, R42, R43). -/
def Access.readsNoValue (s : State) : Access → Bool
  | .readReg o w => (Reg.at o w).any (fun r => (s.regValue r).isNone)
  | .readIn a w => w == 8 && !outsideIn a && (s.inBuf.read a).isNone
  | .readOut a w => w == 8 && !outsideOut a && (s.outByte a).isNone
  | .writeReg _ _ _ | .writeIn _ _ _ | .writeOut _ _ _ => false

/-- Every model fault an access raises (R97). Two rules can be broken at once, and each adds its reason (log entry 6). -/
def Access.reasons (x : Access) (s : State) : List Fault :=
  (if x.addressExists then [] else [.badAddress])
    ++ (if s.status.busy && !x.allowedWhileBusy then [.hostHazard] else [])
    ++ (if x.readsNoValue s then [.noValueRead] else [])

/-! ### What an access does -/

/-- The program's trace records a value read (R69). -/
def State.observe (o : Observation) (s : State) : State := { s with trace := s.trace ++ [o] }

/-- A write to a register while BUSY = 0: CTRL starts an operation (R18), IN_LEN takes the word (R25), and a RO register ignores
it (R17). -/
def State.writeReg (r : Reg) (w : Word) (s : State) : State :=
  match r with
  | .ctrl => s.command w
  | .inLen => { s with inLen := w }
  | .status | .crcAcc | .outLen | .hdrConst | .fHdr | .fLen | .fCrc | .rEcho | .rWeight | .rDiv | .rStable => s

/-- The effect of an access that breaks no rule (R42, R43, R51). A host write to OUT_BUF is ignored. -/
def Access.perform (s : State) : Access → State
  | .readReg o w =>
    match Reg.at o w with
    | some r => (match s.regValue r with | some v => s.observe (.reg r v) | none => s)
    | none => s
  | .writeReg o w v => (match Reg.at o w with | some r => s.writeReg r v | none => s)
  | .readIn a _ => (match s.inBuf.read a with | some v => s.observe (.inByte a v) | none => s)
  | .writeIn a _ v => { s with inBuf := s.inBuf.write a v }
  | .readOut a _ => (match s.outByte a with | some v => s.observe (.outByte a v) | none => s)
  | .writeOut _ _ _ => s

/-- A host access: its effect, or the model faults it raises (R97). -/
def State.hostAccess (x : Access) (s : State) : State :=
  match x.reasons s with
  | [] => x.perform s
  | r :: rs => rs.foldl (fun t f => t.modelFault f) (s.modelFault r)

/-! ### Host programs -/

/-- `WR <reg>, <imm32>` (R69). -/
def HostStmt.wr (r : Reg) (w : Word) : HostStmt := .access (.writeReg r.offset 32 w)

/-- `RD <reg>` (R69). -/
def HostStmt.rd (r : Reg) : HostStmt := .access (.readReg r.offset 32)

/-- `WRB IN[<a>], <imm8>` (R69). -/
def HostStmt.wrb (a : Nat) (v : Byte) : HostStmt := .access (.writeIn a 8 v)

/-- `RDB IN[<a>]` (R69). -/
def HostStmt.rdbIn (a : Nat) : HostStmt := .access (.readIn a 8)

/-- `RDB OUT[<a>]` (R69). -/
def HostStmt.rdbOut (a : Nat) : HostStmt := .access (.readOut a 8)

/-- The operation pseudo-instructions of R69: `WR CTRL` with the operation's command word. -/
def opStmts (i : Instr) : List HostStmt := [.wr .ctrl (encode i)]

/-- `CALL <op>` (R69). -/
def callStmts (i : Instr) : List HostStmt := opStmts i ++ [.wait]

/-- The `WRB` part of `LOADIN`, from an address up (R69). -/
def wrbFrom : Nat → List Byte → List HostStmt
  | _, [] => []
  | a, b :: bs => .wrb a b :: wrbFrom (a + 1) bs

/-- `LOADIN b0, ..., bk-1` (R69). -/
def loadInStmts (bs : List Byte) : List HostStmt := wrbFrom 0 bs ++ [.wr .inLen (BitVec.ofNat 32 bs.length)]

/-- The host's next access, with `p` the program that is left after it. -/
def State.hostDoes (x : Access) (p : List HostStmt) (s : State) : State := { s with program := p }.hostAccess x

/-- One turn of the host: the next access of its program, or RESET. `WAIT` reads STATUS and stays while BUSY = 1; `COPYOUT` reads
OUT_LEN (log entry 5), then for each `a` reads `OUT[a]` and writes that byte to `IN[a]`, then writes OUT_LEN to IN_LEN (R69).
A host whose program has ended does nothing. -/
def State.hostTurn (s : State) : State :=
  match s.program with
  | [] => s
  | .access x :: p => s.hostDoes x p
  | .reset :: p => { s with program := p }.resetEvent
  | .wait :: p => s.hostDoes (.readReg Reg.status.offset 32) (if s.status.busy then .wait :: p else p)
  | .copyOut :: p =>
    s.hostDoes (.readReg Reg.outLen.offset 32)
      (match s.regValue .outLen with | some n => .copyFrom 0 n.toNat :: p | none => p)
  | .copyFrom a n :: p =>
    if a < n then
      s.hostDoes (.readOut a 8) (match s.outByte a with | some v => .wrb a v :: .copyFrom (a + 1) n :: p | none => p)
    else s.hostDoes (.writeReg Reg.inLen.offset 32 (BitVec.ofNat 32 n)) p

end Sys2Proof.Machine
end

