-- ==== Sys2Proof/Machine/Turn.lean ====
section
/-! DEFINITION. The codec's *complete* step and the interleaving of the two agents (00_scope.md R15, R16, 70_reset_and_hazards.md
R108). -/

namespace Sys2Proof.Machine

/-- The codec's *complete* step (R15): it decodes the latched word (R58) and runs the operation, or completes with IllegalOp
(R59). -/
def State.codecComplete (s : State) : Host.Outcome State Fault Refusal :=
  match decode s.pend with
  | .ok i => exec i s
  | .error _ => .next (s.raise .illegalOp none)

/-- A turn of the codec. *Complete* is enabled only while BUSY = 1 (R15, R108); a turn given to the codec at another time passes. -/
def State.codecTurn (s : State) : Host.Outcome State Fault Refusal :=
  if s.status.busy then s.codecComplete else .next s

/-- Who moves: the head of `turns`. When the list has run out, a pending operation completes and otherwise the host moves, so
that a pending operation always completes after finitely many host turns (R108; log entry 4). -/
def State.mover (s : State) : Agent :=
  match s.turns with
  | a :: _ => a
  | [] => if s.status.busy then .codec else .host

/-- The turn is used up. -/
def State.takeTurn (s : State) : State := { s with turns := s.turns.tail }

/-- One turn of the agent that moves. -/
def State.turn (s : State) : Host.Outcome State Fault Refusal :=
  match s.mover with
  | .codec => s.takeTurn.codecTurn
  | .host => .next s.takeTurn.hostTurn

/-- The state in which the next step is the completion of the command word `w` (R18, R58): the command has been given, the codec
moves, and FAULTS is that of a new launch (R39). -/
def State.placeCommand (w : Word) (s : State) : State :=
  { s.command w with turns := .codec :: s.turns, faults := [] }

end Sys2Proof.Machine
end

