-- ==== Sys2Proof/Machine/Step.lean ====
section
/-! DEFINITION. The step of the machine. -/

namespace Sys2Proof.Machine

/-- One step. A state with a non-empty FAULTS has no further step (60_exceptions.md R97). -/
def step (s : State) : Host.Outcome State Fault Refusal :=
  match s.faults with
  | r :: _ => .fault r
  | [] => s.turn

/-- `s` with a command word stored where the step takes its next operation from: PEND, behind a command (10_state.md R18). -/
def State.withFetchWord (s : State) (nbits w : Nat) : State := s.placeCommand (tableWord nbits w)

end Sys2Proof.Machine
end

