-- ==== Sys2Proof/Safety.lean ====
section
/-! DEFINITION. The terms the claims are made in: the run that stays clean, the invariant of the block, and equality up to the
registers no result depends on. -/

namespace Sys2Proof.Machine

/-- No interface rule has been broken (60_exceptions.md R97: a state with a non-empty FAULTS is never a good final state). -/
def State.clean (s : State) : Prop := s.faults = []

/-- The host is in its turn and about to do `x` (30_encoding.md R69). -/
def State.hostAbout (s : State) (st : HostStmt) (rest : List HostStmt) : Prop :=
  s.clean ∧ s.mover = .host ∧ s.program = st :: rest

/-- The codec is in its turn with an operation pending (00_scope.md R15). -/
def State.codecAbout (s : State) : Prop :=
  s.clean ∧ s.mover = .codec ∧ s.status.busy = true

/-- The bytes `bs` lie in the input buffer from address 0 up, each written. -/
def State.inHolds (s : State) (bs : List Byte) : Prop :=
  ∀ k (h : k < bs.length), s.inBuf.read k = some bs[k]

/-- The operand `IN[0..N)` of the pending operation is `bs` (20_memory.md R42). -/
def State.operandIs (s : State) (bs : List Byte) : Prop :=
  s.latchedLen.toNat = bs.length ∧ s.inHolds bs

/-- The state with other internal state: TEMP, ACC, j and i, PEND and N_L (10_state.md R37). -/
def State.withInternal (s : State) (q : Sequencer) (pend latchedLen : Word) : State :=
  { s with seq := q, pend := pend, latchedLen := latchedLen }

/-- Two outcomes agree on everything that is not internal state, and, while an operation is pending, on PEND and N_L. -/
def sameButInternal : Host.Outcome State Fault Refusal → Host.Outcome State Fault Refusal → Prop
  | .next s, .next t => ∃ q p n, t = s.withInternal q p n ∧ (s.status.busy = true → p = s.pend ∧ n = s.latchedLen)
  | .fault r, .fault r' => r = r'
  | .refused r, .refused r' => r = r'
  | .next _, .fault _ | .next _, .refused _ | .fault _, .next _ | .fault _, .refused _ | .refused _, .next _
  | .refused _, .fault _ => False

/-- Every address listed in a buffer lies below its capacity (R41). -/
def Memory.below (m : Memory) (cap : Nat) : Prop := ∀ c ∈ m, c.1 < cap

/-- What STATUS can hold (R19 to R22, R90): one of BUSY and DONE at a time, ERR only with a code and the code only with ERR,
no error while an operation is pending, and no reserved code. -/
structure Status.Consistent (st : Status) : Prop where
  busyNotDone : st.busy = true → st.done = false ∧ st.err = false
  errcodeZero : st.err = false → st.errcode = 0
  errcodeNamed : st.err = true → st.errcode = 1 ∨ st.errcode = 2 ∨ st.errcode = 3
  errorIsReported : st.err = true → st.done = true ∧ st.hdrOk = false ∧ st.lenOk = false ∧ st.crcOk = false

/-- The result cells stand behind their valid bits (R24, R27 to R36, R43), and the check bits say what the registers hold
(R83, R86). -/
structure State.ResultsHeld (s : State) : Prop where
  outHeld : s.status.oValid = true →
    ∃ n, s.outLen = some n ∧ n.toNat ≤ Config.outCap ∧ ∀ a < n.toNat, (s.outBuf.read a).isSome = true
  frameHeld : s.status.fValid = true → s.fHdr.isSome = true ∧ s.fLen.isSome = true ∧ s.fCrc.isSome = true
  recordHeld : s.status.rValid = true →
    s.rEcho.isSome = true ∧ s.rWeight.isSome = true ∧ s.rDiv.isSome = true ∧ s.rStable.isSome = true
  recordInFrame : s.status.rValid = true → s.status.fValid = true ∧ s.status.oValid = false
  headerChecked : s.status.hdrOk = true → s.status.fValid = true ∧ s.fHdr = some Config.header
  lengthChecked : s.status.lenOk = true → s.status.fValid = true ∧
    ∃ n, s.fLen = some n ∧ (s.status.rValid = true → n = 7) ∧ (s.status.rValid = false → s.outLen = some (n.setWidth 32))
  checksumChecked : s.status.crcOk = true → s.status.fValid = true ∧ s.fCrc = some s.crcAcc

/-- The invariant of the block. -/
structure State.Inv (s : State) : Prop where
  inCanonical : s.inBuf.wf
  outCanonical : s.outBuf.wf
  inBelow : s.inBuf.below Config.inCap
  outBelow : s.outBuf.below Config.outCap
  status : s.status.Consistent
  results : s.ResultsHeld
  pendHeld : s.status.busy = true → s.pend = s.ctrl
  lengthHeld : s.status.busy = true → s.latchedLen = s.inLen
  faultsOnce : s.faults.Nodup

end Sys2Proof.Machine
end

