-- ==== Sys2Proof/Certificates/Slice0/Obligations.lean ====
section
/-! DEFINITION. The statements for the provers, from the numbered rules of spec/. A statement about a completion leaves open the
internal state of 10_state.md R37 (`Claims.agrees`), and nothing else. -/

open Sys2Proof Sys2Proof.Machine

namespace Sys2Proof.Claims

/-- STATUS after a successful completion whose check bits are 0 and whose valid bits stay (R91, R23). -/
def plainSuccess (st : Status) : Status :=
  { st with busy := false, done := true, err := false, errcode := 0, hdrOk := false, lenOk := false, crcOk := false }

/-- STATUS after an error completion with the given code that keeps the valid bits (R92). -/
def errorKept (st : Status) (code : BitVec 4) : Status :=
  { st with busy := false, done := true, err := true, errcode := code, hdrOk := false, lenOk := false, crcOk := false }

/-- STATUS after an error completion with the given code that clears the valid bits (R92). -/
def errorCleared (code : BitVec 4) : Status :=
  { busy := false, done := true, err := true, errcode := code, hdrOk := false, lenOk := false, crcOk := false,
    oValid := false, fValid := false, rValid := false }

/-- `t` is `u` but for PEND, N_L, TEMP, ACC, j and i, which a completion leaves unspecified (93_implementation_defined.md I6), and
the model's own counter of free values. -/
def agrees (t u : State) : Prop :=
  t = { u with pend := t.pend, latchedLen := t.latchedLen, seq := t.seq, freeCount := t.freeCount }

/-- `exec i s` completes in an error: it changes STATUS to `st` and nothing else a rule names (R92). -/
def endsInError (i : Instr) (s : State) (st : Status) : Prop := ∃ t, exec i s = .next t ∧ agrees t { s with status := st }

/-- `exec i s` is model fault NoValueRead: FAULTS gains the reason (R38, R97). What becomes of the rest is the model's choice,
which `Obligations.NoValueReadLeavesTheRest` states. -/
def readsNoValue (i : Instr) (s : State) : Prop :=
  ∃ t, exec i s = .next t ∧ t.faults = addFault s.faults .noValueRead

/-- N, the operand length latched at the command (R25). -/
def opLen (s : State) : Nat := s.latchedLen.toNat

/-- One of the operand's bytes was never written (R38). -/
def operandMissing (s : State) : Prop := ∃ k < opLen s, s.inBuf.read k = none

/-- The pseudocode of the operation reads an IN byte that holds NOVALUE, every check before that read having passed (R79, R80,
R82, R85, R93). -/
def meetsNoValue (s : State) : Instr → Prop
  | .crcInit => False
  | .crcByte _ => False
  | .crcBuf => opLen s ≤ Config.inCap ∧ operandMissing s
  | .frmEnc => opLen s ≤ 65535 ∧ operandMissing s
  | .frmDec => 7 ≤ opLen s ∧ opLen s ≤ Config.inCap ∧ operandMissing s ∧
      ∀ x y, s.inBuf.read 3 = some x → s.inBuf.read 4 = some y → (be16 x y).toNat = opLen s - 7
  | .rspDec => opLen s = 14 ∧ operandMissing s

/-- The request frame of R62, written out. -/
def requestFrame (cmd : List Byte) : List Byte :=
  [Config.h0, Config.h1, Config.h2,
    (BitVec.ofNat 16 cmd.length).extractLsb' 8 8, (BitVec.ofNat 16 cmd.length).extractLsb' 0 8]
    ++ cmd ++ [(checksum cmd).extractLsb' 8 8, (checksum cmd).extractLsb' 0 8]

/-- OP of a command word (R57). -/
def op (w : Word) : Byte := w.extractLsb' 0 8
/-- IMM8 of a command word (R57). -/
def imm8 (w : Word) : Byte := w.extractLsb' 8 8
/-- RSV of a command word (R57). -/
def rsv (w : Word) : Half := w.extractLsb' 16 16

/-- The words R59 lists: RSV nonzero, an OP that is not in R58's table, or a nonzero IMM8 with an OP other than 0x02. -/
def illegalWord (w : Word) : Prop :=
  rsv w ≠ 0 ∨ op w ∉ [0x01, 0x02, 0x03, 0x10, 0x11, 0x20] ∨ (imm8 w ≠ 0 ∧ op w ≠ 0x02)

/-- The host accesses R107 allows while BUSY = 1: reads of CTRL, STATUS, IN_LEN and HDR_CONST, and of an IN_BUF byte, whose addresses
are 0 to IN_CAP - 1 (R41). -/
def busyAllows (x : Access) : Prop :=
  (∃ o ∈ [0x00, 0x04, 0x08, 0x14], x = .readReg o 32) ∨ ∃ a < Config.inCap, x = .readIn a 8

/-- The register table of R17. -/
def registerTable : List (Nat × Reg) :=
  [(0x00, .ctrl), (0x04, .status), (0x08, .inLen), (0x0C, .crcAcc), (0x10, .outLen), (0x14, .hdrConst), (0x18, .fHdr),
   (0x1C, .fLen), (0x20, .fCrc), (0x24, .rEcho), (0x28, .rWeight), (0x2C, .rDiv), (0x30, .rStable)]

/-- The access is a read. -/
def isRead : Access → Prop
  | .readReg _ _ | .readIn _ _ | .readOut _ _ => True
  | .writeReg _ _ _ | .writeIn _ _ _ | .writeOut _ _ _ => False

/-- The access names no cell of its space (R17, R42, R43), for registers as words and for the buffers as bytes (D4). -/
def namesNoCell : Access → Prop
  | .readReg o w | .writeReg o w _ => w ≠ 32 ∨ ∀ r, (o, r) ∉ registerTable
  | .readIn a w | .writeIn a w _ => w ≠ 8 ∨ Config.inCap ≤ a
  | .readOut a w | .writeOut a w _ => w ≠ 8 ∨ Config.outCap ≤ a

/-- A byte read of IN_BUF at or beyond IN_CAP: whether it is HostHazard too while BUSY = 1 is the model's choice (log entry 12). -/
def readsBeyondIn (x : Access) : Prop := ∃ a, Config.inCap ≤ a ∧ x = .readIn a 8

/-- The access is one that R107 forbids in this state. -/
def breaksBusyWindow (s : State) (x : Access) : Prop := s.status.busy = true ∧ ¬ busyAllows x

/-- The access reads a cell that holds NOVALUE (R38, R42, R43). -/
def readsEmptyCell (s : State) : Access → Prop
  | .readReg o w => w = 32 ∧ ∃ r, (o, r) ∈ registerTable ∧ s.regValue r = none
  | .readIn a w => w = 8 ∧ a < Config.inCap ∧ s.inBuf.read a = none
  | .readOut a w => w = 8 ∧ a < Config.outCap ∧ s.outByte a = none
  | .writeReg _ _ _ | .writeIn _ _ _ | .writeOut _ _ _ => False

/-- A 32-bit host read at offset `o` returns `v`, the value of register `r`: it records `v` and changes nothing else (R17, R51). -/
def hostReads (s : State) (o : Nat) (r : Reg) (v : Word) : Prop :=
  s.hostAccess (.readReg o 32) = { s with trace := s.trace ++ [.reg r v] }

/-- A host read of OUT_BUF byte `a` returns `v` and changes nothing else (R43, R51). -/
def hostReadsOut (s : State) (a : Nat) (v : Byte) : Prop :=
  s.hostAccess (.readOut a 8) = { s with trace := s.trace ++ [.outByte a v] }

/-- The bytes that CRC.BYTE operations feed one after another from a state (R78). -/
def feedBytes : List Byte → State → Host.Outcome State Fault Refusal
  | [], s => .next s
  | b :: bs, s =>
    match exec (.crcByte b) s with
    | .next t => feedBytes bs t
    | .fault r => .fault r
    | .refused r => .refused r

/-- Bit `j` of a byte sequence read as a big-endian integer, bit 0 of the last byte being bit 0 (R76). -/
def bitOfBytes (s : List Byte) (j : Nat) : Bool := (s.reverse.getD (j / 8) 0).getLsbD (j % 8)

/-- One iteration of R72's loop on integers that grow, with no mask (R75 (b)): TEMP and ACC after it. -/
def growingIteration (p : Nat × Nat) : Nat × Nat :=
  (p.1 <<< 1, if (p.1 ^^^ p.2).testBit 15 then (p.2 <<< 1) ^^^ 0x1021 else p.2 <<< 1)

/-- The byte step on integers that grow (R75 (b)): `crc & 0xFF00` is written `(crc >> 8) << 8`, so TEMP keeps the bits of crc
above 15. -/
def growingStep (crc : Nat) (b : Byte) : Nat :=
  (growingIteration^[8] ((crc >>> 8) <<< 8, 0)).2 ^^^ (crc <<< 8) ^^^ b.toNat

/-- The machine's run, with its types written out. -/
def run (k : Nat) (s : State) : Host.Outcome State Fault Refusal := Sys2Proof.core.run k s

end Sys2Proof.Claims

open Sys2Proof.Claims

/-! ### Encoding -/

/-- Words of 95_test_vectors.md section 2.7 decode to what they stand for. -/
def Obligations.SpecWordsDecode : Prop :=
  decode 0x00000001 = .ok .crcInit ∧ decode 0x00000002 = .ok (.crcByte 0x00) ∧ decode 0x0000FF02 = .ok (.crcByte 0xFF) ∧
  decode 0x00000003 = .ok .crcBuf ∧ decode 0x00000010 = .ok .frmEnc ∧ decode 0x00000011 = .ok .frmDec ∧
  decode 0x00000020 = .ok .rspDec ∧ decode 0x00000000 = .error .unlistedOp ∧
  decode 0x00000110 = .error .strayOperand ∧ decode 0x00010002 = .error .reservedBitsSet

/-- R58: at completion the latched word runs the operation of its row. -/
def Obligations.OperationMapAtCompletion : Prop :=
  ∀ s : State, s.codecAbout →
    (s.pend = 0x00000001 → step s = exec .crcInit s.takeTurn) ∧
    (∀ b, op s.pend = 0x02 → imm8 s.pend = b → rsv s.pend = 0 → step s = exec (.crcByte b) s.takeTurn) ∧
    (s.pend = 0x00000003 → step s = exec .crcBuf s.takeTurn) ∧
    (s.pend = 0x00000010 → step s = exec .frmEnc s.takeTurn) ∧
    (s.pend = 0x00000011 → step s = exec .frmDec s.takeTurn) ∧
    (s.pend = 0x00000020 → step s = exec .rspDec s.takeTurn) ∧
    (illegalWord s.pend → step s = .next (s.takeTurn.raise .illegalOp none))

/-- R60: every word decodes to one of the six operations or is IllegalOp. -/
def Obligations.DecodeHasSevenOutcomes : Prop :=
  ∀ w : Word,
    (decode w = .ok .crcInit ↔ w = 0x00000001) ∧
    (∀ b, decode w = .ok (.crcByte b) ↔ w &&& 0xFFFF00FF = 0x00000002 ∧ b = imm8 w) ∧
    (decode w = .ok .crcBuf ↔ w = 0x00000003) ∧
    (decode w = .ok .frmEnc ↔ w = 0x00000010) ∧
    (decode w = .ok .frmDec ↔ w = 0x00000011) ∧
    (decode w = .ok .rspDec ↔ w = 0x00000020) ∧
    ((∃ r, decode w = .error r) ↔ illegalWord w)

/-- Encoding and decoding agree in both directions, for every operation and every word. -/
def Obligations.EncodeAndDecodeAgree : Prop :=
  (∀ i : Instr, i.wellFormed = true → decode (encode i) = .ok i) ∧
  (∀ (w : Word) (i : Instr), decode w = .ok i → encode i = w) ∧
  (∀ i j : Instr, encode i = encode j → i = j)

/-- R70: what the assembler accepts, and what it refuses. -/
def Obligations.AssemblerAcceptsItsSyntax : Prop :=
  (∀ ns i, assemble ⟨.crcByte, ns⟩ = some i ↔ ∃ n, ns = [n] ∧ n ≤ 255 ∧ i = .crcByte (BitVec.ofNat 8 n)) ∧
  (∀ ns i, assemble ⟨.crcInit, ns⟩ = some i ↔ ns = [] ∧ i = .crcInit) ∧
  (∀ ns i, assemble ⟨.crcBuf, ns⟩ = some i ↔ ns = [] ∧ i = .crcBuf) ∧
  (∀ ns i, assemble ⟨.frmEnc, ns⟩ = some i ↔ ns = [] ∧ i = .frmEnc) ∧
  (∀ ns i, assemble ⟨.frmDec, ns⟩ = some i ↔ ns = [] ∧ i = .frmDec) ∧
  (∀ ns i, assemble ⟨.rspDec, ns⟩ = some i ↔ ns = [] ∧ i = .rspDec)

/-- A step of a clean state: it runs the decoded operation when the codec completes, passes the codec's turn when nothing is
pending, and otherwise is a turn of the host, whose access it performs. Who moves is the head of `turns`, and when that
list is empty the codec while BUSY = 1 (the model's choice, log entry 4). -/
def Obligations.StepRunsTheDecodedOperation : Prop :=
  (∀ (s : State) (i : Instr), s.codecAbout → decode s.pend = .ok i → step s = exec i s.takeTurn) ∧
  (∀ s : State, s.clean → s.mover = .codec → s.status.busy = false → step s = .next s.takeTurn) ∧
  (∀ (s : State) (x : Access) (rest : List HostStmt), s.hostAbout (.access x) rest →
    step s = .next ({ s with turns := s.turns.tail, program := rest }.hostAccess x)) ∧
  (∀ s : State, s.clean → s.mover = .host → s.program = [] → step s = .next s.takeTurn) ∧
  (∀ (s : State) (a : Agent) (l : List Agent), s.turns = a :: l → s.mover = a ∧ s.takeTurn = { s with turns := l }) ∧
  (∀ s : State, s.turns = [] → (s.mover = .codec ↔ s.status.busy = true))

/-- R59: every illegal word completes with ERRCODE 2 and changes nothing but the STATUS fields the rule names. -/
def Obligations.IllegalWordCompletes : Prop :=
  (∀ w : Word, illegalWord w → ∃ r, decode w = .error r) ∧
  (∀ s : State, s.codecAbout → illegalWord s.pend →
    ∃ t, step s = .next t ∧
      agrees t { s with status := errorKept s.status 2, turns := s.turns.tail }) ∧
  illegalWord State.reset.ctrl

/-! ### The Checksum Engine -/

/-- R73: the byte step in terms of the reduction term, and the term's linearity (95_test_vectors.md section 2.1). -/
def Obligations.ByteStepReduction : Prop :=
  (∀ (crc : Half) (b : Byte), crcStep crc b =
    reductionTerm (crc.extractLsb' 8 8) ^^^ ((crc.extractLsb' 0 8).setWidth 16 <<< 8) ^^^ b.setWidth 16) ∧
  (∀ g h : Byte, reductionTerm (g ^^^ h) = reductionTerm g ^^^ reductionTerm h)

open Polynomial in
/-- R76: the checksum is the remainder of the message polynomial over GF(2) by G = x^16 + x^12 + x^5 + 1, and two zero bytes
appended multiply the message by x^16 (R76 (iv)). -/
def Obligations.ChecksumIsPolynomialRemainder : Prop :=
  ∀ s : List Byte,
    (∑ i ∈ Finset.range 16, if (checksum s).getLsbD i then (X : (ZMod 2)[X]) ^ i else 0) =
      (∑ j ∈ Finset.range (8 * s.length), if bitOfBytes s j then (X : (ZMod 2)[X]) ^ j else 0) %ₘ
        (X ^ 16 + X ^ 12 + X ^ 5 + 1) ∧
    (∑ i ∈ Finset.range 16, if (checksum (s ++ [0, 0])).getLsbD i then (X : (ZMod 2)[X]) ^ i else 0) =
      ((∑ j ∈ Finset.range (8 * s.length), if bitOfBytes s j then (X : (ZMod 2)[X]) ^ j else 0) * X ^ 16) %ₘ
        (X ^ 16 + X ^ 12 + X ^ 5 + 1)

/-- R76 (i) to (iii): at most two bytes are their own checksum, leading zeros do not matter, and the checksum is linear over
sequences of equal length. -/
def Obligations.ChecksumShortZeroAndLinear : Prop :=
  checksum [] = 0 ∧
  (∀ b : Byte, checksum [b] = b.setWidth 16) ∧
  (∀ a b : Byte, (checksum [a, b]).toNat = 256 * a.toNat + b.toNat) ∧
  (∀ s : List Byte, checksum (0 :: s) = checksum s) ∧
  (∀ s t : List Byte, s.length = t.length →
    checksum (List.zipWith (fun a b => a ^^^ b) s t) = checksum s ^^^ checksum t)

/-- R75 (b): the engine on integers that grow without a mask has the same low 16 bits, for every input. -/
def Obligations.GrowingEngineAgrees : Prop :=
  (∀ (crc : Nat) (b : Byte), BitVec.ofNat 16 (growingStep crc b) = crcStep (BitVec.ofNat 16 crc) b) ∧
  (∀ s : List Byte, BitVec.ofNat 16 (s.foldl growingStep 0) = checksum s)

/-! ### The CRC operations -/

/-- R77. -/
def Obligations.CrcInitResult : Prop :=
  encode .crcInit = 0x00000001 ∧
  (∀ w, op w = 0x01 → imm8 w ≠ 0 ∨ rsv w ≠ 0 → ∃ r, decode w = .error r) ∧
  ∀ s : State, ∃ t, exec .crcInit s = .next t ∧
    agrees t { s with crcAcc := 0, status := plainSuccess s.status }

/-- R78, with its vectors. -/
def Obligations.CrcByteResult : Prop :=
  (∀ b : Byte, encode (.crcByte b) = (b.setWidth 32 <<< 8) ||| 0x02) ∧
  (∀ (b : Byte) (s : State), ∃ t, exec (.crcByte b) s = .next t ∧
    agrees t { s with crcAcc := crcStep s.crcAcc b, status := plainSuccess s.status }) ∧
  crcStep 0x0000 0x00 = 0x0000 ∧ crcStep 0xFFFF 0xFF = 0xE10F ∧ crcStep 0x1234 0x56 = 0x0625

/-- The inference that R78 marks as derived: CRC.INIT and then CRC.BYTE for each byte of a sequence leave its checksum. -/
def Obligations.ByteSerialPathAgrees : Prop :=
  ∀ (bs : List Byte) (s : State), ∃ t u, exec .crcInit s = .next t ∧ feedBytes bs t = .next u ∧
    agrees u { s with crcAcc := checksum bs, status := plainSuccess s.status }

/-- R79, with its vectors. -/
def Obligations.CrcBufResult : Prop :=
  encode .crcBuf = 0x00000003 ∧ checksum [] = 0x0000 ∧
  checksum [0x31, 0x32, 0x33, 0x34, 0x35, 0x36, 0x37, 0x38, 0x39] = 0xBEEF ∧
  ∀ s : State,
    (Config.inCap < opLen s → endsInError .crcBuf s (errorKept s.status 3)) ∧
    (opLen s ≤ Config.inCap → operandMissing s → readsNoValue .crcBuf s) ∧
    (∀ bs, s.operandIs bs → bs.length ≤ Config.inCap → ∃ t, exec .crcBuf s = .next t ∧
      agrees t { s with crcAcc := checksum bs, status := plainSuccess s.status })

/-! ### The frame operations -/

/-- R80: FRM.ENC, on every operand. -/
def Obligations.FrmEncResult : Prop :=
  encode .frmEnc = 0x00000010 ∧ checksum [0xA0] = 0x00A0 ∧ 65535 + 7 ≤ Config.outCap ∧
  ∀ s : State,
    (Config.inCap < opLen s ∨ 65535 < opLen s → endsInError .frmEnc s (errorCleared 3)) ∧
    (opLen s ≤ 65535 → operandMissing s → readsNoValue .frmEnc s) ∧
    (∀ cmd, s.operandIs cmd → cmd.length ≤ 65535 → ∃ t, exec .frmEnc s = .next t ∧
      (∀ k (h : k < (requestFrame cmd).length), t.outBuf.read k = some (requestFrame cmd)[k]) ∧
      (∀ k, cmd.length + 7 ≤ k → t.outBuf.read k = s.outBuf.read k ∧ t.outByte k = none) ∧
      agrees t { s with
        outBuf := t.outBuf, outLen := some (BitVec.ofNat 32 (cmd.length + 7)), crcAcc := checksum cmd
        status := { plainSuccess s.status with oValid := true, fValid := false, rValid := false } })

/-- The properties of a successful FRM.ENC that R81 derives from R80. -/
def Obligations.FrmEncProperties : Prop :=
  (∀ (s u : State) (cmd : List Byte), s.operandIs cmd → u.operandIs cmd → cmd.length ≤ 65535 →
    ∃ t v, exec .frmEnc s = .next t ∧ exec .frmEnc u = .next v ∧ t.outLen = v.outLen ∧ t.crcAcc = v.crcAcc ∧
      ∀ k, t.outByte k = v.outByte k) ∧
  (∀ (s : State) (cmd : List Byte), s.operandIs cmd → cmd.length ≤ 65535 →
    ∃ t, exec .frmEnc s = .next t ∧ t.outLen = some (BitVec.ofNat 32 (3 + 2 + cmd.length + 2)) ∧
      (∃ x y, t.outByte 3 = some x ∧ t.outByte 4 = some y ∧ (be16 x y).toNat = cmd.length) ∧
      (∃ x y, t.outByte (5 + cmd.length) = some x ∧ t.outByte (6 + cmd.length) = some y ∧
        ∀ p : List Byte, p.length = cmd.length → (∀ k (h : k < p.length), t.outByte (5 + k) = some p[k]) →
          be16 x y = checksum p))

/-- The poll frame, as R67 derives it from R63 and R74. -/
def Obligations.PollFrame : Prop :=
  ∀ s : State, opLen s = 0 → ∃ t, exec .frmEnc s = .next t ∧ t.outLen = some 7 ∧
    t.outByte 0 = some Config.h0 ∧ t.outByte 1 = some Config.h1 ∧ t.outByte 2 = some Config.h2 ∧
    t.outByte 3 = some 0 ∧ t.outByte 4 = some 0 ∧ t.outByte 5 = some 0 ∧ t.outByte 6 = some 0

/-- R82 and R83: FRM.DEC, on every operand. -/
def Obligations.FrmDecResult : Prop :=
  encode .frmDec = 0x00000011 ∧ be16 0x07 0x00 = 0x0700 ∧ checksum [0xA0] = 0x00A0 ∧
  ∀ s : State,
    (Config.inCap < opLen s → endsInError .frmDec s (errorCleared 3)) ∧
    (opLen s < 7 → endsInError .frmDec s (errorCleared 1)) ∧
    (7 ≤ opLen s → opLen s ≤ Config.inCap → s.inBuf.read 3 = none ∨ s.inBuf.read 4 = none → readsNoValue .frmDec s) ∧
    (∀ x y, 7 ≤ opLen s → opLen s ≤ Config.inCap → s.inBuf.read 3 = some x → s.inBuf.read 4 = some y →
      (be16 x y).toNat ≠ opLen s - 7 → endsInError .frmDec s (errorCleared 1)) ∧
    (∀ x y, 7 ≤ opLen s → s.inBuf.read 3 = some x → s.inBuf.read 4 = some y →
      (be16 x y).toNat = opLen s - 7 → operandMissing s → readsNoValue .frmDec s) ∧
    (∀ g0 g1 g2 l1 l0 payload c1 c0,
      s.operandIs (g0 :: g1 :: g2 :: l1 :: l0 :: (payload ++ [c1, c0])) → (be16 l1 l0).toNat = payload.length →
      ∃ t, exec .frmDec s = .next t ∧
        (∀ k (h : k < payload.length), t.outBuf.read k = some payload[k]) ∧
        (∀ k, payload.length ≤ k → t.outBuf.read k = s.outBuf.read k ∧ t.outByte k = none) ∧
        agrees t { s with
          outBuf := t.outBuf, outLen := some (BitVec.ofNat 32 payload.length), crcAcc := checksum payload
          fHdr := some (u24 g0 g1 g2), fLen := some (be16 l1 l0), fCrc := some (be16 c1 c0)
          status := { plainSuccess s.status with
            hdrOk := decide (u24 g0 g1 g2 = Config.header), lenOk := true
            crcOk := decide (be16 c1 c0 = checksum payload), oValid := true, fValid := true, rValid := false } })

/-- R85 and R86: RSP.DEC, on every operand, with the rule's corner values. -/
def Obligations.RspDecResult : Prop :=
  encode .rspDec = 0x00000020 ∧
  (le32 0xFF 0xFF 0xFF 0xFF).toInt = -1 ∧ (le32 0x00 0x00 0x00 0x80).toInt = -2147483648 ∧
  (le32 0xFF 0xFF 0xFF 0x7F).toInt = 2147483647 ∧ (0x80 : Byte).toInt = -128 ∧ (0x7F : Byte).toInt = 127 ∧
  checksum [0, 0, 0, 0, 0, 0, 0] = 0 ∧ checksum [0xA0, 0xD2, 0x04, 0x00, 0x00, 0x01, 0x01] = 0xB2CE ∧
  ∀ s : State,
    (Config.inCap < opLen s → endsInError .rspDec s (errorCleared 3)) ∧
    (opLen s ≤ Config.inCap → opLen s ≠ 14 → endsInError .rspDec s (errorCleared 1)) ∧
    (opLen s = 14 → operandMissing s → readsNoValue .rspDec s) ∧
    (∀ g0 g1 g2 l1 l0 echo w0 w1 w2 w3 dv st c1 c0,
      s.operandIs [g0, g1, g2, l1, l0, echo, w0, w1, w2, w3, dv, st, c1, c0] →
      ∃ t, exec .rspDec s = .next t ∧
        agrees t { s with
          fHdr := some (u24 g0 g1 g2), fLen := some (be16 l1 l0), fCrc := some (be16 c1 c0)
          rEcho := some echo, rWeight := some (le32 w0 w1 w2 w3), rDiv := some dv, rStable := some st
          crcAcc := checksum [echo, w0, w1, w2, w3, dv, st]
          status := { plainSuccess s.status with
            hdrOk := decide (u24 g0 g1 g2 = Config.header), lenOk := decide (be16 l1 l0 = 7)
            crcOk := decide (be16 c1 c0 = checksum [echo, w0, w1, w2, w3, dv, st])
            oValid := false, fValid := true, rValid := true } })

/-- The byte orders of R11 and R44 to R48: what the assembled fields are as numbers. -/
def Obligations.ByteOrdersOfTheWire : Prop :=
  (∀ x y : Byte, (be16 x y).toNat = 256 * x.toNat + y.toNat) ∧
  (∀ x y z : Byte, (u24 x y z).toNat = 65536 * x.toNat + 256 * y.toNat + z.toNat) ∧
  (∀ a b c d : Byte, (le32 a b c d).toNat = a.toNat + 256 * b.toNat + 65536 * c.toNat + 16777216 * d.toNat) ∧
  (∀ v : Half, ∃ x y, bytesBE16 v = [x, y] ∧ be16 x y = v) ∧
  u24 Config.h0 Config.h1 Config.h2 = Config.header

/-- R84 over the operations themselves: what FRM.ENC leaves in OUT, presented as an input, decodes to the command with all
checks good. Conversely a frame that decodes with a good header and checksum is what FRM.ENC makes of its payload. -/
def Obligations.DecodeInvertsEncode : Prop :=
  (∀ (s : State) (cmd : List Byte), s.operandIs cmd → cmd.length ≤ 65535 →
    ∃ t, exec .frmEnc s = .next t ∧
      ∀ u : State, opLen u = cmd.length + 7 → (∀ k < cmd.length + 7, u.inBuf.read k = t.outByte k) →
        ∃ v, exec .frmDec u = .next v ∧ v.status.err = false ∧
          v.regValue .outLen = some (BitVec.ofNat 32 cmd.length) ∧
          (∀ k (h : k < cmd.length), v.outByte k = some cmd[k]) ∧ (∀ k, cmd.length ≤ k → v.outByte k = none) ∧
          v.regValue .fLen = some (BitVec.ofNat 32 cmd.length) ∧ v.regValue .fHdr = v.regValue .hdrConst ∧
          v.regValue .fCrc = some ((checksum cmd).setWidth 32) ∧ v.crcAcc = checksum cmd ∧
          v.status.hdrOk = true ∧ v.status.lenOk = true ∧ v.status.crcOk = true) ∧
  (∀ (u v s : State) (raw cmd : List Byte), u.clean → u.operandIs raw → exec .frmDec u = .next v → v.clean →
    v.status.err = false → v.status.hdrOk = true → v.status.crcOk = true →
    v.regValue .outLen = some (BitVec.ofNat 32 cmd.length) → cmd.length ≤ 65535 →
    (∀ k (h : k < cmd.length), v.outByte k = some cmd[k]) → s.operandIs cmd →
    ∃ t, exec .frmEnc s = .next t ∧ raw.length = cmd.length + 7 ∧
      ∀ k (h : k < raw.length), t.outByte k = some raw[k])

/-- What R88 derives from R85 and R87: RSP.DEC reads nothing but its 14 bytes, and an input of another length leaves no
Reading. -/
def Obligations.RspDecIsDeterministicAndWhole : Prop :=
  (∀ (s u : State) (raw : List Byte), raw.length = 14 → s.operandIs raw → u.operandIs raw →
    ∃ t v, exec .rspDec s = .next t ∧ exec .rspDec u = .next v ∧ t.status = v.status ∧ t.crcAcc = v.crcAcc ∧
      t.reading = v.reading ∧ t.reading ≠ none ∧
      ∀ r ∈ [Reg.fHdr, .fLen, .fCrc, .rEcho, .rWeight, .rDiv, .rStable], t.regValue r = v.regValue r) ∧
  (∀ s : State, opLen s ≠ 14 → opLen s ≤ Config.inCap →
    ∃ t, exec .rspDec s = .next t ∧ t.status.err = true ∧ t.status.errcode = 1 ∧ t.status.rValid = false ∧
      t.reading = none)

/-- R87: the Reading is the read-out of three registers and of the cells behind them, and exists exactly when R_VALID = 1. -/
def Obligations.ReadingIsTheReadOut : Prop :=
  (∀ s : State, s.status.rValid = false → s.reading = none ∧
    ∀ r ∈ [Reg.rWeight, .rDiv, .rStable], s.regValue r = none ∧
      Fault.noValueRead ∈ (s.hostAccess (.readReg r.offset 32)).faults) ∧
  (∀ s : State, s.Inv → s.status.rValid = true → ∃ w d f,
    s.regValue .rWeight = some w ∧ s.regValue .rDiv = some d ∧ s.regValue .rStable = some f ∧
    s.reading = some { weightValue := w.toInt, divisionValue := (d.extractLsb' 0 8).toInt, stable := f.extractLsb' 0 8 }) ∧
  (∀ (s : State) (w : Word) (d f : Byte), s.status.rValid = true → s.rWeight = some w → s.rDiv = some d → s.rStable = some f →
    s.regValue .rWeight = some w ∧ s.regValue .rDiv = some (d.setWidth 32) ∧ s.regValue .rStable = some (f.setWidth 32) ∧
    s.reading = some { weightValue := w.toInt, divisionValue := d.toInt, stable := f })

/-- D9: the bytes of the header and of the checksum never decide whether a decode succeeds, and for RSP.DEC neither do the
bytes of the length field. -/
def Obligations.ChecksNeverReject : Prop :=
  ∀ s u : State, opLen s = opLen u → ¬ operandMissing s → ¬ operandMissing u →
    (∃ t v, exec .rspDec s = .next t ∧ exec .rspDec u = .next v ∧
      t.status.err = v.status.err ∧ t.status.errcode = v.status.errcode) ∧
    (s.inBuf.read 3 = u.inBuf.read 3 → s.inBuf.read 4 = u.inBuf.read 4 →
      ∃ t v, exec .frmDec s = .next t ∧ exec .frmDec u = .next v ∧
        t.status.err = v.status.err ∧ t.status.errcode = v.status.errcode)

/-! ### Completion -/

/-- R24: what each outcome leaves in the valid bits, and what a valid bit of 0 means. -/
def Obligations.ValidBitsTable : Prop :=
  (∀ (s t : State) (i : Instr), s.clean → exec i s = .next t → t.clean →
    match i with
    | .crcInit | .crcByte _ | .crcBuf =>
      t.status.oValid = s.status.oValid ∧ t.status.fValid = s.status.fValid ∧ t.status.rValid = s.status.rValid
    | .frmEnc =>
      t.status.oValid = !t.status.err ∧ t.status.fValid = false ∧ t.status.rValid = false
    | .frmDec =>
      t.status.oValid = !t.status.err ∧ t.status.fValid = !t.status.err ∧ t.status.rValid = false
    | .rspDec =>
      t.status.oValid = false ∧ t.status.fValid = !t.status.err ∧ t.status.rValid = !t.status.err) ∧
  (∀ s t : State, illegalWord s.pend → s.codecComplete = .next t →
    t.status.oValid = s.status.oValid ∧ t.status.fValid = s.status.fValid ∧ t.status.rValid = s.status.rValid) ∧
  (∀ s : State,
    (s.status.oValid = false → s.regValue .outLen = none ∧ ∀ a, s.outByte a = none) ∧
    (s.status.fValid = false → s.regValue .fHdr = none ∧ s.regValue .fLen = none ∧ s.regValue .fCrc = none) ∧
    (s.status.rValid = false → s.regValue .rEcho = none ∧ s.regValue .rWeight = none ∧ s.regValue .rDiv = none ∧
      s.regValue .rStable = none)) ∧
  State.reset.status.oValid = false ∧ State.reset.status.fValid = false ∧ State.reset.status.rValid = false

/-- R21: DONE. -/
def Obligations.DoneIsSetByEveryCompletion : Prop :=
  (∀ s t : State, s.codecAbout → step s = .next t → t.clean → t.status.done = true ∧ t.status.busy = false) ∧
  (∀ (s : State) (w : Word) (rest : List HostStmt), s.hostAbout (.wr .ctrl w) rest → s.status.busy = false →
    ∃ t, step s = .next t ∧ t.status.done = false) ∧
  (∀ s t : State, s.status.busy = false → step s = .next t → (∀ w rest, ¬ s.hostAbout (.wr .ctrl w) rest) →
    t.status.busy = false ∧ (t.status.done = s.status.done ∨ ∃ rest, s.hostAbout .reset rest ∧ t.status.done = false)) ∧
  State.reset.status.done = false ∧ State.reset.status.busy = false

/-- R92: an operation that ends in an error changes nothing but STATUS. -/
def Obligations.ErrorsArePrecise : Prop :=
  ∀ s t : State, s.codecAbout → step s = .next t → t.clean → t.status.err = true →
    (t.status.errcode = 1 ∨ t.status.errcode = 2 ∨ t.status.errcode = 3) ∧
    (t.status.errcode = 2 ↔ illegalWord s.pend) ∧
    (s.pend = encode .frmEnc ∨ s.pend = encode .frmDec ∨ s.pend = encode .rspDec →
      agrees t { s with status := errorCleared t.status.errcode, turns := s.turns.tail } ∧
        (∀ a, t.outByte a = none) ∧
        ∀ r ∈ [Reg.outLen, .fHdr, .fLen, .fCrc, .rEcho, .rWeight, .rDiv, .rStable], t.regValue r = none) ∧
    (s.pend ≠ encode .frmEnc → s.pend ≠ encode .frmDec → s.pend ≠ encode .rspDec →
      agrees t { s with status := errorKept s.status t.status.errcode, turns := s.turns.tail })

/-- R93: the order of the checks. -/
def Obligations.CheckOrder : Prop :=
  (∀ s : State, illegalWord s.pend →
    ∃ t, s.codecComplete = .next t ∧ t.faults = s.faults ∧ t.status.err = true ∧ t.status.errcode = 2) ∧
  (∀ (s : State) (w : Word), s.status.busy = true → (s.hostAccess (.writeReg 0x00 32 w)).pend = s.pend) ∧
  (∀ (s : State) (i : Instr), i = .crcBuf ∨ i = .frmEnc ∨ i = .frmDec ∨ i = .rspDec → Config.inCap < opLen s →
    ∃ t, exec i s = .next t ∧ t.faults = s.faults ∧ t.status.err = true ∧ t.status.errcode = 3) ∧
  (∀ s : State, 65535 < opLen s →
    ∃ t, exec .frmEnc s = .next t ∧ t.faults = s.faults ∧ t.status.err = true ∧ t.status.errcode = 3) ∧
  (∀ s : State, opLen s < 7 →
    ∃ t, exec .frmDec s = .next t ∧ t.faults = s.faults ∧ t.status.err = true ∧ t.status.errcode = 1) ∧
  (∀ (s : State) (x y : Byte), 7 ≤ opLen s → opLen s ≤ Config.inCap → s.inBuf.read 3 = some x → s.inBuf.read 4 = some y →
    (be16 x y).toNat ≠ opLen s - 7 →
    ∃ t, exec .frmDec s = .next t ∧ t.faults = s.faults ∧ t.status.err = true ∧ t.status.errcode = 1) ∧
  (∀ s : State, opLen s ≤ Config.inCap → opLen s ≠ 14 →
    ∃ t, exec .rspDec s = .next t ∧ t.faults = s.faults ∧ t.status.err = true ∧ t.status.errcode = 1) ∧
  (∀ (s t : State) (i : Instr), s.clean → exec i s = .next t → ¬ t.clean →
    t.faults = [.noValueRead] ∧ meetsNoValue s i)

/-- CRC_ACC changes only when an operation succeeds, or at RESET (10_state.md R26). That a model fault leaves it is the model's choice
(log entry 7). -/
def Obligations.CrcAccHasNoOtherWriter : Prop :=
  ∀ s t : State, step s = .next t → t.crcAcc ≠ s.crcAcc →
    (s.codecAbout ∧ t.clean ∧ t.status.err = false ∧ ¬ illegalWord s.pend) ∨
    (∃ rest, s.hostAbout .reset rest ∧ t.crcAcc = 0)

/-- R19: the layout of STATUS, and that the host cannot write it. That a model fault leaves it is the model's choice (log entry
7). -/
def Obligations.StatusLayout : Prop :=
  (∀ st : Status,
    st.word.getLsbD 0 = st.busy ∧ st.word.getLsbD 1 = st.done ∧ st.word.getLsbD 2 = st.err ∧
    st.word.getLsbD 3 = false ∧ st.word.extractLsb' 4 4 = st.errcode ∧ st.word.getLsbD 8 = st.hdrOk ∧
    st.word.getLsbD 9 = st.lenOk ∧ st.word.getLsbD 10 = st.crcOk ∧ st.word.getLsbD 11 = false ∧
    st.word.getLsbD 12 = st.oValid ∧ st.word.getLsbD 13 = st.fValid ∧ st.word.getLsbD 14 = st.rValid ∧
    ∀ k, 15 ≤ k → st.word.getLsbD k = false) ∧
  (∀ (s : State) (w : Word), s.status.busy = false → s.hostAccess (.writeReg 0x04 32 w) = s) ∧
  (∀ s t : State, step s = .next t → t.status ≠ s.status →
    s.codecAbout ∨ (∃ w rest, s.hostAbout (.wr .ctrl w) rest) ∨ (∃ rest, s.hostAbout .reset rest))

/-! ### The host's accesses -/

/-- R20: what a command does. -/
def Obligations.CommandStartsTheOperation : Prop :=
  (∀ (s : State) (w : Word) (rest : List HostStmt), s.hostAbout (.wr .ctrl w) rest → s.status.busy = false →
    step s = .next { s with
      ctrl := w, pend := w, latchedLen := s.inLen
      status := { s.status with busy := true, done := false, err := false, errcode := 0 }
      program := rest, turns := s.turns.tail }) ∧
  (∀ s t : State, s.status.busy = true → step s = .next t → ¬ s.codecAbout → (∀ rest, ¬ s.hostAbout .reset rest) →
    t.status = s.status) ∧
  (∀ s t : State, s.codecAbout → step s = .next t → t.clean → t.status.busy = false) ∧
  State.reset.status.busy = false

/-- R107: the busy-window rule. Of a byte read of IN_BUF at or beyond IN_CAP, which is BadAddress, it is left open here whether it is
HostHazard too: `Obligations.EveryBrokenRuleAddsItsReason` says what the model does. -/
def Obligations.BusyWindow : Prop :=
  ∀ (s : State) (x : Access), s.clean → s.status.busy = true →
    (busyAllows x → Fault.hostHazard ∉ (s.hostAccess x).faults) ∧
    (¬ busyAllows x → ¬ readsBeyondIn x → Fault.hostHazard ∈ (s.hostAccess x).faults) ∧
    (busyAllows x → (s.hostAccess x).clean → s.hostAccess x = { s with trace := (s.hostAccess x).trace })

/-- R17: the register file. What a read returns is said of each register's own cell: STATUS as the word whose layout
`Obligations.StatusLayout` says, HDR_CONST as the parameter, the others as their fields, with 0 above their types. -/
def Obligations.RegisterFile : Prop :=
  (∀ o w r, Reg.at o w = some r ↔ w = 32 ∧ (o, r) ∈ registerTable) ∧
  (∀ (s : State) (o w : Nat) (v : Word), (w ≠ 32 ∨ ∀ r, (o, r) ∉ registerTable) →
    ∀ x ∈ [Access.readReg o w, .writeReg o w v], Fault.badAddress ∈ (s.hostAccess x).faults) ∧
  (∀ (s : State) (o : Nat) (r : Reg) (v : Word), (o, r) ∈ registerTable → r ≠ .ctrl → r ≠ .inLen →
    s.status.busy = false → s.hostAccess (.writeReg o 32 v) = s) ∧
  (∀ (s : State) (o : Nat) (r : Reg) (v : Word), (o, r) ∈ registerTable → s.status.busy = false → s.regValue r = some v →
    s.hostAccess (.readReg o 32) = { s with trace := s.trace ++ [.reg r v] }) ∧
  (∀ s : State,
    s.regValue .ctrl = some s.ctrl ∧ s.regValue .status = some s.status.word ∧ s.regValue .inLen = some s.inLen ∧
    s.regValue .crcAcc = some (s.crcAcc.setWidth 32) ∧ s.regValue .hdrConst = some (Config.header.setWidth 32) ∧
    (s.status.oValid = true → s.regValue .outLen = s.outLen) ∧
    (s.status.fValid = true → s.regValue .fHdr = s.fHdr.map (·.setWidth 32) ∧
      s.regValue .fLen = s.fLen.map (·.setWidth 32) ∧ s.regValue .fCrc = s.fCrc.map (·.setWidth 32)) ∧
    (s.status.rValid = true → s.regValue .rEcho = s.rEcho.map (·.setWidth 32) ∧ s.regValue .rWeight = s.rWeight ∧
      s.regValue .rDiv = s.rDiv.map (·.setWidth 32) ∧ s.regValue .rStable = s.rStable.map (·.setWidth 32))) ∧
  (∀ (s : State) (v : Word),
    (∀ r ∈ [Reg.crcAcc, .fLen, .fCrc], s.regValue r = some v → v.toNat < 2 ^ 16) ∧
    (∀ r ∈ [Reg.hdrConst, .fHdr], s.regValue r = some v → v.toNat < 2 ^ 24) ∧
    (∀ r ∈ [Reg.rEcho, .rDiv, .rStable], s.regValue r = some v → v.toNat < 2 ^ 8)) ∧
  registerTable.map (fun p => State.reset.regValue p.2) =
    [some 0, some 0, some 0, some 0, none, some (Config.header.setWidth 32), none, none, none, none, none, none, none]

/-- The reads R110 and R38 forbid fault and return no number: of a register behind a valid bit of 0, of an OUT byte without a
result, of an IN byte never written. With the invariant, every read behind a valid bit of 1 returns one. -/
def Obligations.ReadsBehindValidBits : Prop :=
  (∀ (s : State) (r : Reg), s.regValue r = none →
    Fault.noValueRead ∈ (s.hostAccess (.readReg r.offset 32)).faults ∧
    (s.hostAccess (.readReg r.offset 32)).trace = s.trace) ∧
  (∀ (s : State) (a : Nat), a < Config.outCap → s.outByte a = none →
    Fault.noValueRead ∈ (s.hostAccess (.readOut a 8)).faults ∧ (s.hostAccess (.readOut a 8)).trace = s.trace) ∧
  (∀ (s : State) (a : Nat), a < Config.inCap → s.inBuf.read a = none →
    Fault.noValueRead ∈ (s.hostAccess (.readIn a 8)).faults ∧ (s.hostAccess (.readIn a 8)).trace = s.trace) ∧
  (∀ s : State, s.Inv →
    (s.status.oValid = true → ∃ n, s.regValue .outLen = some n ∧ ∀ a < n.toNat, ∃ v, s.outByte a = some v) ∧
    (s.status.fValid = true → ∀ r ∈ [Reg.fHdr, .fLen, .fCrc], ∃ v, s.regValue r = some v) ∧
    (s.status.rValid = true → ∀ r ∈ [Reg.rEcho, .rWeight, .rDiv, .rStable], ∃ v, s.regValue r = some v))

/-- R51: a read changes nothing but the host's own trace, a write only the cell it names, and both are idempotent, but for the
write to CTRL, which starts an operation. -/
def Obligations.AccessSideEffects : Prop :=
  (∀ (s : State) (x : Access), s.clean → isRead x → (s.hostAccess x).clean →
    ∃ o, s.hostAccess x = { s with trace := s.trace ++ [o] } ∧
      (s.hostAccess x).hostAccess x = { s with trace := s.trace ++ [o, o] }) ∧
  (∀ (s : State) (a w : Nat) (v : Byte), s.clean → (s.hostAccess (.writeIn a w v)).clean →
    ∃ m, s.hostAccess (.writeIn a w v) = { s with inBuf := m } ∧ m.read a = some v ∧ (∀ k, k ≠ a → m.read k = s.inBuf.read k) ∧
      (s.hostAccess (.writeIn a w v)).hostAccess (.writeIn a w v) = s.hostAccess (.writeIn a w v)) ∧
  (∀ (s : State) (a w : Nat) (v : Byte), s.clean → (s.hostAccess (.writeOut a w v)).clean → s.hostAccess (.writeOut a w v) = s) ∧
  (∀ (s : State) (v : Word), s.clean → (s.hostAccess (.writeReg 0x08 32 v)).clean →
    s.hostAccess (.writeReg 0x08 32 v) = { s with inLen := v } ∧
      (s.hostAccess (.writeReg 0x08 32 v)).hostAccess (.writeReg 0x08 32 v) = s.hostAccess (.writeReg 0x08 32 v)) ∧
  (∀ (s : State) (o w : Nat) (v : Word), s.clean → o ≠ 0x00 → o ≠ 0x08 → (s.hostAccess (.writeReg o w v)).clean →
    s.hostAccess (.writeReg o w v) = s) ∧
  (∀ (s : State) (v : Word), s.clean → s.status.busy = false →
    s.hostAccess (.writeReg 0x00 32 v) = s.command v ∧ (s.command v).status.busy = true)

/-- The host's accesses to IN_BUF (20_memory.md R42, with D4's width). That a faulting access changes nothing but FAULTS is the
model's choice (log entry 7). -/
def Obligations.InBufferAccess : Prop :=
  (∀ (s : State) (a : Nat) (v : Byte), s.status.busy = false → a < Config.inCap →
    s.hostAccess (.writeIn a 8 v) = { s with inBuf := s.inBuf.write a v } ∧ (s.inBuf.write a v).read a = some v ∧
      (∀ k, k ≠ a → (s.inBuf.write a v).read k = s.inBuf.read k) ∧ (s.inBuf.wf → (s.inBuf.write a v).wf)) ∧
  (∀ (s : State) (a : Nat) (v : Byte), a < Config.inCap → s.inBuf.read a = some v →
    s.hostAccess (.readIn a 8) = { s with trace := s.trace ++ [.inByte a v] }) ∧
  (∀ (s : State) (a : Nat), a < Config.inCap → s.inBuf.read a = none →
    s.hostAccess (.readIn a 8) = { s with faults := addFault s.faults .noValueRead }) ∧
  (∀ (s : State) (a w : Nat) (v : Byte), w ≠ 8 ∨ Config.inCap ≤ a → ∀ x ∈ [Access.readIn a w, .writeIn a w v],
    Fault.badAddress ∈ (s.hostAccess x).faults ∧ s.hostAccess x = { s with faults := (s.hostAccess x).faults }) ∧
  (∀ (s : State) (a : Nat) (v : Byte), s.status.busy = true →
    Fault.hostHazard ∈ (s.hostAccess (.writeIn a 8 v)).faults ∧ (s.hostAccess (.writeIn a 8 v)).inBuf = s.inBuf) ∧
  (∀ a, State.reset.inBuf.read a = none)

/-- The host's accesses to OUT_BUF (20_memory.md R43, with D4's width). That a faulting access changes nothing but FAULTS is the
model's choice (log entry 7). -/
def Obligations.OutBufferAccess : Prop :=
  (∀ (s : State) (a : Nat) (n : Word) (v : Byte), s.status.busy = false → a < Config.outCap → s.status.oValid = true →
    s.outLen = some n → a < n.toNat → s.outBuf.read a = some v →
    s.hostAccess (.readOut a 8) = { s with trace := s.trace ++ [.outByte a v] }) ∧
  (∀ (s : State) (a : Nat), s.status.busy = false → a < Config.outCap →
    (s.status.oValid = false ∨ ∀ n, s.outLen = some n → n.toNat ≤ a) →
    s.hostAccess (.readOut a 8) = { s with faults := addFault s.faults .noValueRead }) ∧
  (∀ (s : State) (a : Nat) (v : Byte), s.status.busy = false → a < Config.outCap → s.hostAccess (.writeOut a 8 v) = s) ∧
  (∀ (s : State) (a w : Nat) (v : Byte), w ≠ 8 ∨ Config.outCap ≤ a → ∀ x ∈ [Access.readOut a w, .writeOut a w v],
    Fault.badAddress ∈ (s.hostAccess x).faults ∧ s.hostAccess x = { s with faults := (s.hostAccess x).faults }) ∧
  (∀ (s : State) (a : Nat), s.status.busy = true →
    Fault.hostHazard ∈ (s.hostAccess (.readOut a 8)).faults ∧ (s.hostAccess (.readOut a 8)).trace = s.trace) ∧
  (∀ a, State.reset.outByte a = none ∧ State.reset.outBuf.read a = none)

/-! ### Reset, hazards and the agents -/

/-- R103: the reset state. -/
def Obligations.ResetState : Prop :=
  State.reset.ctrl = 0 ∧ State.reset.regValue .status = some 0 ∧ State.reset.inLen = 0 ∧ State.reset.crcAcc = 0 ∧
  State.reset.outLen = none ∧ State.reset.regValue .hdrConst = some (Config.header.setWidth 32) ∧
  State.reset.fHdr = none ∧ State.reset.fLen = none ∧ State.reset.fCrc = none ∧ State.reset.rEcho = none ∧
  State.reset.rWeight = none ∧ State.reset.rDiv = none ∧ State.reset.rStable = none ∧
  (∀ r ∈ [Reg.outLen, .fHdr, .fLen, .fCrc, .rEcho, .rWeight, .rDiv, .rStable], State.reset.regValue r = none) ∧
  (∀ a, State.reset.inBuf.read a = none ∧ State.reset.outBuf.read a = none) ∧ State.reset.faults = []

/-- R105, with R104: RESET at any time puts the block into its reset state, abandons a pending operation, and leaves FAULTS and
the parameter HEADER. What becomes of the host agent is open here. -/
def Obligations.ResetEvent : Prop :=
  ∀ (s : State) (rest : List HostStmt), s.hostAbout .reset rest →
    ∃ t, step s = .next t ∧
      t = { State.reset with
        pend := t.pend, latchedLen := t.latchedLen, seq := t.seq, freeCount := t.freeCount
        faults := s.faults, program := t.program, turns := t.turns, trace := t.trace } ∧
      t.regValue .hdrConst = s.regValue .hdrConst

/-- R109: between a completion and the next command or RESET no register, STATUS field or OUT_BUF byte changes. IN_LEN is the
host's own to write, and neither that write nor one to IN_BUF changes a result. -/
def Obligations.ResultsAreStable : Prop :=
  ∀ s t : State, s.status.busy = false → step s = .next t →
    (∀ w rest, ¬ s.hostAbout (.wr .ctrl w) rest) → (∀ rest, ¬ s.hostAbout .reset rest) →
    t = { s with inLen := t.inLen, inBuf := t.inBuf, faults := t.faults, program := t.program, turns := t.turns,
                 trace := t.trace } ∧
    ((∀ w rest, ¬ s.hostAbout (.wr .inLen w) rest) → (∀ a n rest, ¬ s.hostAbout (.copyFrom a n) rest) →
      t.inLen = s.inLen)

/-- From command to completion the host changes nothing the operation reads (R107, R50): but for RESET, a host turn while
BUSY = 1 leaves all of the block's state. For a forbidden access that is the model's choice (log entry 7). -/
def Obligations.PendingOperationIsUndisturbed : Prop :=
  ∀ s t : State, s.status.busy = true → s.mover = .host → step s = .next t → (∀ rest, ¬ s.hostAbout .reset rest) →
    t = { s with faults := t.faults, program := t.program, turns := s.turns.tail, trace := t.trace }

/-- R39: FAULTS is empty at reset, and no operation, illegal word, host access, host turn or RESET event removes a member. -/
def Obligations.FaultsStick : Prop :=
  State.reset.faults = [] ∧
  (∀ (s t : State) (i : Instr), exec i s = .next t → ∀ r ∈ s.faults, r ∈ t.faults) ∧
  (∀ s t : State, s.codecComplete = .next t → ∀ r ∈ s.faults, r ∈ t.faults) ∧
  (∀ (s : State) (x : Access), ∀ r ∈ s.faults, r ∈ (s.hostAccess x).faults) ∧
  (∀ s : State, ∀ r ∈ s.faults, r ∈ s.hostTurn.faults) ∧
  (∀ s : State, s.resetEvent.faults = s.faults)

/-- The invariant of the block holds after every step from a state that has it. -/
def Obligations.StepKeepsTheInvariant : Prop := ∀ s t : State, s.Inv → step s = .next t → t.Inv

/-- The invariant holds at reset. -/
def Obligations.ResetHasTheInvariant : Prop := State.reset.Inv

/-- R108 as far as one run shows it: whatever finite interleaving stands in `turns`, within one step more than it has turns a pending
operation completes, is abandoned by RESET, or is stopped by a model fault; and with no RESET in the host's program and no model
fault it completes, DONE = 1. The bound is the model's (log entry 4). -/
def Obligations.PendingOperationCompletes : Prop :=
  ∀ s : State, s.clean → s.status.busy = true →
    ∃ k ≤ s.turns.length + 1, ∃ t, run k s = .next t ∧ (t.status.busy = false ∨ ¬ t.clean) ∧
      (HostStmt.reset ∉ s.program → t.clean → t.status.busy = false ∧ t.status.done = true)

/-- R37: no result depends on TEMP, ACC, j or i, nor between operations on PEND or N_L (I6): two runs that differ only there
agree on everything else for ever. -/
def Obligations.InternalStateIsUnobservable : Prop :=
  ∀ (k : Nat) (s : State) (q : Sequencer) (p n : Word), (s.status.busy = true → p = s.pend ∧ n = s.latchedLen) →
    sameButInternal (run k s) (run k (s.withInternal q p n))

/-- WAIT (30_encoding.md R69, R54): it reads STATUS and goes on only once BUSY = 0. -/
def Obligations.WaitPollsStatus : Prop :=
  ∀ (s : State) (rest : List HostStmt), s.hostAbout .wait rest →
    step s = .next { s with
      trace := s.trace ++ [.reg .status s.status.word], turns := s.turns.tail
      program := if s.status.busy then .wait :: rest else rest }

/-- COPYOUT (30_encoding.md R69): run with no other turn in between, it copies the result to IN_BUF and its length to IN_LEN. That
it reads OUT_LEN first is the model's reading (log entry 5). -/
def Obligations.CopyOutCopiesTheResult : Prop :=
  ∀ (s : State) (rest : List HostStmt) (n : Word), s.clean → s.turns = [] → s.status.busy = false →
    s.program = .copyOut :: rest → s.status.oValid = true → s.outLen = some n →
    n.toNat ≤ Config.inCap → n.toNat ≤ Config.outCap → (∀ a < n.toNat, (s.outBuf.read a).isSome = true) →
    ∃ t, run (2 * n.toNat + 2) s = .next t ∧
      (∀ k < n.toNat, t.inBuf.read k = s.outBuf.read k) ∧ (∀ k, n.toNat ≤ k → t.inBuf.read k = s.inBuf.read k) ∧
      t = { s with inBuf := t.inBuf, inLen := n, program := rest, trace := t.trace }

/-! ### Model faults -/

/-- The effect of an operation that meets NOVALUE is FAULTS alone, with the operation still pending: R97 says only that the reason
is added, and the rest is the model's choice (log entry 7). Every other operation completes and adds no reason. -/
def Obligations.NoValueReadLeavesTheRest : Prop :=
  ∀ (i : Instr) (s : State),
    (meetsNoValue s i → exec i s = .next { s with faults := addFault s.faults .noValueRead }) ∧
    (¬ meetsNoValue s i →
      ∃ t, exec i s = .next t ∧ t.faults = s.faults ∧ t.status.busy = false ∧ t.status.done = true)

/-- RESET leaves the host agent: its program goes on after the RESET, its trace stays. The spec says nothing of the host here: the
model's reading (log entry 10). -/
def Obligations.ResetLeavesTheHost : Prop :=
  ∀ (s : State) (rest : List HostStmt), s.hostAbout .reset rest →
    ∃ t, step s = .next t ∧ t.program = rest ∧ t.turns = s.turns.tail ∧ t.trace = s.trace

/-- A state has a next state exactly when FAULTS is empty, and faults exactly when it is not. That idle turns pass is log entry 4, and
that the step that breaks a rule itself answers a next state is log entry 7. -/
def Obligations.StepStopsExactlyOnARecordedFault : Prop :=
  ∀ s : State, (s.clean ↔ ∃ t, step s = .next t) ∧ (¬ s.clean ↔ ∃ r, step s = .fault r) ∧ ∀ r, step s ≠ .refused r

/-- R97, with D4's widths: when each reason is raised, and that a state with a reason has no further step. An access gets no reason whose rule it does
not break, and one that breaks a single rule gets that reason; one that breaks several gets some reason
(`Obligations.EveryBrokenRuleAddsItsReason` says which). -/
def Obligations.ModelFaultTable : Prop :=
  (∀ (s : State) (x : Access), s.clean →
    (Fault.badAddress ∈ (s.hostAccess x).faults → namesNoCell x) ∧
    (Fault.hostHazard ∈ (s.hostAccess x).faults → breaksBusyWindow s x) ∧
    (Fault.noValueRead ∈ (s.hostAccess x).faults → readsEmptyCell s x) ∧
    (namesNoCell x → ¬ breaksBusyWindow s x → (s.hostAccess x).faults = [.badAddress]) ∧
    (breaksBusyWindow s x → ¬ namesNoCell x → ¬ readsEmptyCell s x → (s.hostAccess x).faults = [.hostHazard]) ∧
    (readsEmptyCell s x → ¬ breaksBusyWindow s x → (s.hostAccess x).faults = [.noValueRead]) ∧
    (namesNoCell x ∨ breaksBusyWindow s x ∨ readsEmptyCell s x ↔ (s.hostAccess x).faults ≠ [])) ∧
  (∀ (s t : State) (i : Instr), s.clean → exec i s = .next t →
    (t.faults = [.noValueRead] ↔ meetsNoValue s i) ∧ (t.faults = [] ↔ ¬ meetsNoValue s i)) ∧
  (∀ (s : State) (r : Fault), r ∈ s.faults → (∃ q ∈ s.faults, step s = .fault q) ∧ ∀ t, step s ≠ .next t)

/-- A host access that breaks a rule changes FAULTS alone, and a step that records a fault changes nothing of the block but FAULTS:
R97 says only that the reason is added, and the rest is the model's choice (log entry 7). -/
def Obligations.FaultingAccessLeavesTheRest : Prop :=
  (∀ (s : State) (x : Access), namesNoCell x ∨ breaksBusyWindow s x ∨ readsEmptyCell s x →
    s.hostAccess x = { s with faults := (s.hostAccess x).faults }) ∧
  (∀ (s : State) (x : Access), s.status.busy = true →
    s.hostAccess x = { s with faults := (s.hostAccess x).faults, trace := (s.hostAccess x).trace }) ∧
  (∀ s t : State, step s = .next t → ¬ t.clean →
    t = { s with faults := t.faults, program := t.program, turns := s.turns.tail })

/-- An access that breaks several rules adds the reason of each: the model's reading of R97 (log entry 6); but a byte read of IN_BUF at
or beyond IN_CAP while BUSY = 1 is BadAddress alone: the model's choice (log entry 12). -/
def Obligations.EveryBrokenRuleAddsItsReason : Prop :=
  ∀ (s : State) (x : Access), s.clean →
    (Fault.badAddress ∈ (s.hostAccess x).faults ↔ namesNoCell x) ∧
    (Fault.hostHazard ∈ (s.hostAccess x).faults ↔ breaksBusyWindow s x ∧ ¬ readsBeyondIn x) ∧
    (Fault.noValueRead ∈ (s.hostAccess x).faults ↔ readsEmptyCell s x)

/-- CRC.INIT and CRC.BYTE complete without error in every state, on every byte (R77 and R78: "Errors: none", "Every b is legal"), and
CRC.BYTE reads neither IN_BUF nor IN_LEN. -/
def Obligations.CrcInitAndCrcByteComplete : Prop :=
  (∀ s : State, ∃ t, exec .crcInit s = .next t ∧
    t.status.busy = false ∧ t.status.done = true ∧ t.status.err = false ∧ t.faults = s.faults) ∧
  (∀ (b : Byte) (s : State), ∃ t, exec (.crcByte b) s = .next t ∧
    t.status.busy = false ∧ t.status.done = true ∧ t.status.err = false ∧ t.faults = s.faults) ∧
  (∀ (b : Byte) (s : State) (m : Memory) (n l : Word), ∃ t u, exec (.crcByte b) s = .next t ∧
    exec (.crcByte b) { s with inBuf := m, inLen := n, latchedLen := l } = .next u ∧
    u.crcAcc = t.crcAcc ∧ u.status = t.status)

/-- What a host read of each register returns, in terms of its own cell (R18, R19, R25 to R34, R36): CTRL, STATUS, IN_LEN and
HDR_CONST in every state, the others while BUSY = 0, and behind its valid bit where a register has one. -/
def Obligations.HostReadsReturnTheCells : Prop :=
  ∀ s : State,
    (hostReads s 0x00 .ctrl s.ctrl ∧ hostReads s 0x04 .status s.status.word ∧ hostReads s 0x08 .inLen s.inLen ∧
      hostReads s 0x14 .hdrConst ((u24 Config.h0 Config.h1 Config.h2).setWidth 32)) ∧
    (s.status.busy = false → hostReads s 0x0C .crcAcc (s.crcAcc.setWidth 32)) ∧
    (s.status.busy = false → s.status.oValid = true → ∀ n, s.outLen = some n → hostReads s 0x10 .outLen n) ∧
    (s.status.busy = false → s.status.fValid = true →
      (∀ v, s.fHdr = some v → hostReads s 0x18 .fHdr (v.setWidth 32)) ∧
      (∀ v, s.fLen = some v → hostReads s 0x1C .fLen (v.setWidth 32)) ∧
      (∀ v, s.fCrc = some v → hostReads s 0x20 .fCrc (v.setWidth 32))) ∧
    (s.status.busy = false → s.status.rValid = true →
      (∀ v, s.rEcho = some v → hostReads s 0x24 .rEcho (v.setWidth 32)) ∧
      (∀ v, s.rWeight = some v → hostReads s 0x28 .rWeight v) ∧
      (∀ v, s.rDiv = some v → hostReads s 0x2C .rDiv (v.setWidth 32)) ∧
      (∀ v, s.rStable = some v → hostReads s 0x30 .rStable (v.setWidth 32)))

/-- The results of the six operations as the host reads them afterwards (R77 to R80, R82, R85, with the reads of R26 to R36 and
R43): every operation that succeeds answers a next state in which these reads return these values, and after RSP.DEC the
Reading of R87 is made of the response's own bytes. -/
def Obligations.ResultsAsTheHostReadsThem : Prop :=
  (∀ s : State, ∃ t, exec .crcInit s = .next t ∧ hostReads t 0x0C .crcAcc 0) ∧
  (∀ (b : Byte) (s : State), ∃ t, exec (.crcByte b) s = .next t ∧
    hostReads t 0x0C .crcAcc ((crcStep s.crcAcc b).setWidth 32)) ∧
  (∀ (s : State) (bs : List Byte), s.operandIs bs → bs.length ≤ Config.inCap →
    ∃ t, exec .crcBuf s = .next t ∧ hostReads t 0x0C .crcAcc ((checksum bs).setWidth 32)) ∧
  (∀ (s : State) (cmd : List Byte), s.operandIs cmd → cmd.length ≤ 65535 →
    ∃ t, exec .frmEnc s = .next t ∧ hostReads t 0x0C .crcAcc ((checksum cmd).setWidth 32) ∧
      hostReads t 0x10 .outLen (BitVec.ofNat 32 (cmd.length + 7)) ∧
      ∀ k (h : k < (requestFrame cmd).length), hostReadsOut t k (requestFrame cmd)[k]) ∧
  (∀ (s : State) (g0 g1 g2 l1 l0 : Byte) (payload : List Byte) (c1 c0 : Byte),
    s.operandIs (g0 :: g1 :: g2 :: l1 :: l0 :: (payload ++ [c1, c0])) → (be16 l1 l0).toNat = payload.length →
    ∃ t, exec .frmDec s = .next t ∧ hostReads t 0x0C .crcAcc ((checksum payload).setWidth 32) ∧
      hostReads t 0x10 .outLen (BitVec.ofNat 32 payload.length) ∧ hostReads t 0x18 .fHdr ((u24 g0 g1 g2).setWidth 32) ∧
      hostReads t 0x1C .fLen ((be16 l1 l0).setWidth 32) ∧ hostReads t 0x20 .fCrc ((be16 c1 c0).setWidth 32) ∧
      ∀ k (h : k < payload.length), hostReadsOut t k payload[k]) ∧
  (∀ (s : State) (g0 g1 g2 l1 l0 echo w0 w1 w2 w3 dv st c1 c0 : Byte),
    s.operandIs [g0, g1, g2, l1, l0, echo, w0, w1, w2, w3, dv, st, c1, c0] →
    ∃ t, exec .rspDec s = .next t ∧
      hostReads t 0x0C .crcAcc ((checksum [echo, w0, w1, w2, w3, dv, st]).setWidth 32) ∧
      hostReads t 0x18 .fHdr ((u24 g0 g1 g2).setWidth 32) ∧ hostReads t 0x1C .fLen ((be16 l1 l0).setWidth 32) ∧
      hostReads t 0x20 .fCrc ((be16 c1 c0).setWidth 32) ∧ hostReads t 0x24 .rEcho (echo.setWidth 32) ∧
      hostReads t 0x28 .rWeight (le32 w0 w1 w2 w3) ∧ hostReads t 0x2C .rDiv (dv.setWidth 32) ∧
      hostReads t 0x30 .rStable (st.setWidth 32) ∧
      t.reading = some { weightValue := (le32 w0 w1 w2 w3).toInt, divisionValue := dv.toInt, stable := st })

/-- CTRL and IN_LEN hold the last word written (R18, R25): a write while BUSY = 0 puts the word there, and every other step leaves
both but RESET, which leaves 0. A COPYOUT ends with such a write of IN_LEN (R69), of the length it has read (log entry 5). That a
write which R107 forbids stores nothing is the model's choice (log entry 7). -/
def Obligations.CtrlAndInLenHoldTheLastWord : Prop :=
  (∀ (s : State) (w : Word) (rest : List HostStmt), s.status.busy = false →
    (s.hostAbout (.wr .ctrl w) rest → ∃ t, step s = .next t ∧ t.ctrl = w ∧ t.inLen = s.inLen ∧ hostReads t 0x00 .ctrl w) ∧
    (s.hostAbout (.wr .inLen w) rest → ∃ t, step s = .next t ∧ t.inLen = w ∧ t.ctrl = s.ctrl ∧ hostReads t 0x08 .inLen w)) ∧
  (∀ s t : State, step s = .next t → t.ctrl ≠ s.ctrl →
    (∃ w rest, s.hostAbout (.wr .ctrl w) rest ∧ s.status.busy = false ∧ t.ctrl = w) ∨
    (∃ rest, s.hostAbout .reset rest ∧ t.ctrl = 0)) ∧
  (∀ s t : State, step s = .next t → t.inLen ≠ s.inLen →
    (∃ w rest, s.hostAbout (.wr .inLen w) rest ∧ s.status.busy = false ∧ t.inLen = w) ∨
    (∃ a n rest, s.hostAbout (.copyFrom a n) rest ∧ s.status.busy = false ∧ n ≤ a ∧ t.inLen = BitVec.ofNat 32 n) ∨
    (∃ rest, s.hostAbout .reset rest ∧ t.inLen = 0))
end

