-- ==== Sys2Proof/Laws/State.lean ====
section
/-! SUPPORT. What each operation on the state leaves in each field, and what each operation on STATUS leaves in each of its
fields: one lemma a field, true by unfolding, so that no later proof unfolds a record update. -/

namespace Sys2Proof.Machine

/-! ### command -/

@[simp] theorem State.command_ctrl (w : Word) (s : State) : (s.command w).ctrl = w := rfl
@[simp] theorem State.command_status (w : Word) (s : State) : (s.command w).status = s.status.started := rfl
@[simp] theorem State.command_inLen (w : Word) (s : State) : (s.command w).inLen = s.inLen := rfl
@[simp] theorem State.command_crcAcc (w : Word) (s : State) : (s.command w).crcAcc = s.crcAcc := rfl
@[simp] theorem State.command_outLen (w : Word) (s : State) : (s.command w).outLen = s.outLen := rfl
@[simp] theorem State.command_fHdr (w : Word) (s : State) : (s.command w).fHdr = s.fHdr := rfl
@[simp] theorem State.command_fLen (w : Word) (s : State) : (s.command w).fLen = s.fLen := rfl
@[simp] theorem State.command_fCrc (w : Word) (s : State) : (s.command w).fCrc = s.fCrc := rfl
@[simp] theorem State.command_rEcho (w : Word) (s : State) : (s.command w).rEcho = s.rEcho := rfl
@[simp] theorem State.command_rWeight (w : Word) (s : State) : (s.command w).rWeight = s.rWeight := rfl
@[simp] theorem State.command_rDiv (w : Word) (s : State) : (s.command w).rDiv = s.rDiv := rfl
@[simp] theorem State.command_rStable (w : Word) (s : State) : (s.command w).rStable = s.rStable := rfl
@[simp] theorem State.command_inBuf (w : Word) (s : State) : (s.command w).inBuf = s.inBuf := rfl
@[simp] theorem State.command_outBuf (w : Word) (s : State) : (s.command w).outBuf = s.outBuf := rfl
@[simp] theorem State.command_pend (w : Word) (s : State) : (s.command w).pend = w := rfl
@[simp] theorem State.command_latchedLen (w : Word) (s : State) : (s.command w).latchedLen = s.inLen := rfl
@[simp] theorem State.command_seq (w : Word) (s : State) : (s.command w).seq = s.seq := rfl
@[simp] theorem State.command_faults (w : Word) (s : State) : (s.command w).faults = s.faults := rfl
@[simp] theorem State.command_freeCount (w : Word) (s : State) : (s.command w).freeCount = s.freeCount := rfl
@[simp] theorem State.command_program (w : Word) (s : State) : (s.command w).program = s.program := rfl
@[simp] theorem State.command_turns (w : Word) (s : State) : (s.command w).turns = s.turns := rfl
@[simp] theorem State.command_trace (w : Word) (s : State) : (s.command w).trace = s.trace := rfl

/-! ### forgetInternal -/

@[simp] theorem State.forgetInternal_ctrl (s : State) : (s.forgetInternal).ctrl = s.ctrl := rfl
@[simp] theorem State.forgetInternal_status (s : State) : (s.forgetInternal).status = s.status := rfl
@[simp] theorem State.forgetInternal_inLen (s : State) : (s.forgetInternal).inLen = s.inLen := rfl
@[simp] theorem State.forgetInternal_crcAcc (s : State) : (s.forgetInternal).crcAcc = s.crcAcc := rfl
@[simp] theorem State.forgetInternal_outLen (s : State) : (s.forgetInternal).outLen = s.outLen := rfl
@[simp] theorem State.forgetInternal_fHdr (s : State) : (s.forgetInternal).fHdr = s.fHdr := rfl
@[simp] theorem State.forgetInternal_fLen (s : State) : (s.forgetInternal).fLen = s.fLen := rfl
@[simp] theorem State.forgetInternal_fCrc (s : State) : (s.forgetInternal).fCrc = s.fCrc := rfl
@[simp] theorem State.forgetInternal_rEcho (s : State) : (s.forgetInternal).rEcho = s.rEcho := rfl
@[simp] theorem State.forgetInternal_rWeight (s : State) : (s.forgetInternal).rWeight = s.rWeight := rfl
@[simp] theorem State.forgetInternal_rDiv (s : State) : (s.forgetInternal).rDiv = s.rDiv := rfl
@[simp] theorem State.forgetInternal_rStable (s : State) : (s.forgetInternal).rStable = s.rStable := rfl
@[simp] theorem State.forgetInternal_inBuf (s : State) : (s.forgetInternal).inBuf = s.inBuf := rfl
@[simp] theorem State.forgetInternal_outBuf (s : State) : (s.forgetInternal).outBuf = s.outBuf := rfl
@[simp] theorem State.forgetInternal_pend (s : State) : (s.forgetInternal).pend = Config.freePend s.freeCount := rfl
@[simp] theorem State.forgetInternal_latchedLen (s : State) : (s.forgetInternal).latchedLen = Config.freeLatchedLen s.freeCount := rfl
@[simp] theorem State.forgetInternal_seq (s : State) : (s.forgetInternal).seq = unspecifiedSequencer s.freeCount := rfl
@[simp] theorem State.forgetInternal_faults (s : State) : (s.forgetInternal).faults = s.faults := rfl
@[simp] theorem State.forgetInternal_freeCount (s : State) : (s.forgetInternal).freeCount = s.freeCount + 1 := rfl
@[simp] theorem State.forgetInternal_program (s : State) : (s.forgetInternal).program = s.program := rfl
@[simp] theorem State.forgetInternal_turns (s : State) : (s.forgetInternal).turns = s.turns := rfl
@[simp] theorem State.forgetInternal_trace (s : State) : (s.forgetInternal).trace = s.trace := rfl

/-! ### complete -/

@[simp] theorem State.complete_ctrl (st : Status) (s : State) : (s.complete st).ctrl = s.ctrl := rfl
@[simp] theorem State.complete_status (st : Status) (s : State) : (s.complete st).status = st := rfl
@[simp] theorem State.complete_inLen (st : Status) (s : State) : (s.complete st).inLen = s.inLen := rfl
@[simp] theorem State.complete_crcAcc (st : Status) (s : State) : (s.complete st).crcAcc = s.crcAcc := rfl
@[simp] theorem State.complete_outLen (st : Status) (s : State) : (s.complete st).outLen = s.outLen := rfl
@[simp] theorem State.complete_fHdr (st : Status) (s : State) : (s.complete st).fHdr = s.fHdr := rfl
@[simp] theorem State.complete_fLen (st : Status) (s : State) : (s.complete st).fLen = s.fLen := rfl
@[simp] theorem State.complete_fCrc (st : Status) (s : State) : (s.complete st).fCrc = s.fCrc := rfl
@[simp] theorem State.complete_rEcho (st : Status) (s : State) : (s.complete st).rEcho = s.rEcho := rfl
@[simp] theorem State.complete_rWeight (st : Status) (s : State) : (s.complete st).rWeight = s.rWeight := rfl
@[simp] theorem State.complete_rDiv (st : Status) (s : State) : (s.complete st).rDiv = s.rDiv := rfl
@[simp] theorem State.complete_rStable (st : Status) (s : State) : (s.complete st).rStable = s.rStable := rfl
@[simp] theorem State.complete_inBuf (st : Status) (s : State) : (s.complete st).inBuf = s.inBuf := rfl
@[simp] theorem State.complete_outBuf (st : Status) (s : State) : (s.complete st).outBuf = s.outBuf := rfl
@[simp] theorem State.complete_pend (st : Status) (s : State) : (s.complete st).pend = Config.freePend s.freeCount := rfl
@[simp] theorem State.complete_latchedLen (st : Status) (s : State) : (s.complete st).latchedLen = Config.freeLatchedLen s.freeCount := rfl
@[simp] theorem State.complete_seq (st : Status) (s : State) : (s.complete st).seq = unspecifiedSequencer s.freeCount := rfl
@[simp] theorem State.complete_faults (st : Status) (s : State) : (s.complete st).faults = s.faults := rfl
@[simp] theorem State.complete_freeCount (st : Status) (s : State) : (s.complete st).freeCount = s.freeCount + 1 := rfl
@[simp] theorem State.complete_program (st : Status) (s : State) : (s.complete st).program = s.program := rfl
@[simp] theorem State.complete_turns (st : Status) (s : State) : (s.complete st).turns = s.turns := rfl
@[simp] theorem State.complete_trace (st : Status) (s : State) : (s.complete st).trace = s.trace := rfl

/-! ### succeedKeeping -/

@[simp] theorem State.succeedKeeping_ctrl (s : State) : (s.succeedKeeping).ctrl = s.ctrl := rfl
@[simp] theorem State.succeedKeeping_status (s : State) : (s.succeedKeeping).status = s.status.succeeded.withChecks false false false := rfl
@[simp] theorem State.succeedKeeping_inLen (s : State) : (s.succeedKeeping).inLen = s.inLen := rfl
@[simp] theorem State.succeedKeeping_crcAcc (s : State) : (s.succeedKeeping).crcAcc = s.crcAcc := rfl
@[simp] theorem State.succeedKeeping_outLen (s : State) : (s.succeedKeeping).outLen = s.outLen := rfl
@[simp] theorem State.succeedKeeping_fHdr (s : State) : (s.succeedKeeping).fHdr = s.fHdr := rfl
@[simp] theorem State.succeedKeeping_fLen (s : State) : (s.succeedKeeping).fLen = s.fLen := rfl
@[simp] theorem State.succeedKeeping_fCrc (s : State) : (s.succeedKeeping).fCrc = s.fCrc := rfl
@[simp] theorem State.succeedKeeping_rEcho (s : State) : (s.succeedKeeping).rEcho = s.rEcho := rfl
@[simp] theorem State.succeedKeeping_rWeight (s : State) : (s.succeedKeeping).rWeight = s.rWeight := rfl
@[simp] theorem State.succeedKeeping_rDiv (s : State) : (s.succeedKeeping).rDiv = s.rDiv := rfl
@[simp] theorem State.succeedKeeping_rStable (s : State) : (s.succeedKeeping).rStable = s.rStable := rfl
@[simp] theorem State.succeedKeeping_inBuf (s : State) : (s.succeedKeeping).inBuf = s.inBuf := rfl
@[simp] theorem State.succeedKeeping_outBuf (s : State) : (s.succeedKeeping).outBuf = s.outBuf := rfl
@[simp] theorem State.succeedKeeping_pend (s : State) : (s.succeedKeeping).pend = Config.freePend s.freeCount := rfl
@[simp] theorem State.succeedKeeping_latchedLen (s : State) : (s.succeedKeeping).latchedLen = Config.freeLatchedLen s.freeCount := rfl
@[simp] theorem State.succeedKeeping_seq (s : State) : (s.succeedKeeping).seq = unspecifiedSequencer s.freeCount := rfl
@[simp] theorem State.succeedKeeping_faults (s : State) : (s.succeedKeeping).faults = s.faults := rfl
@[simp] theorem State.succeedKeeping_freeCount (s : State) : (s.succeedKeeping).freeCount = s.freeCount + 1 := rfl
@[simp] theorem State.succeedKeeping_program (s : State) : (s.succeedKeeping).program = s.program := rfl
@[simp] theorem State.succeedKeeping_turns (s : State) : (s.succeedKeeping).turns = s.turns := rfl
@[simp] theorem State.succeedKeeping_trace (s : State) : (s.succeedKeeping).trace = s.trace := rfl

/-! ### succeedWith -/

@[simp] theorem State.succeedWith_ctrl (h l c o f r : Bool) (s : State) : (s.succeedWith h l c o f r).ctrl = s.ctrl := rfl
@[simp] theorem State.succeedWith_status (h l c o f r : Bool) (s : State) : (s.succeedWith h l c o f r).status = (s.status.succeeded.withChecks h l c).withValid o f r := rfl
@[simp] theorem State.succeedWith_inLen (h l c o f r : Bool) (s : State) : (s.succeedWith h l c o f r).inLen = s.inLen := rfl
@[simp] theorem State.succeedWith_crcAcc (h l c o f r : Bool) (s : State) : (s.succeedWith h l c o f r).crcAcc = s.crcAcc := rfl
@[simp] theorem State.succeedWith_outLen (h l c o f r : Bool) (s : State) : (s.succeedWith h l c o f r).outLen = s.outLen := rfl
@[simp] theorem State.succeedWith_fHdr (h l c o f r : Bool) (s : State) : (s.succeedWith h l c o f r).fHdr = s.fHdr := rfl
@[simp] theorem State.succeedWith_fLen (h l c o f r : Bool) (s : State) : (s.succeedWith h l c o f r).fLen = s.fLen := rfl
@[simp] theorem State.succeedWith_fCrc (h l c o f r : Bool) (s : State) : (s.succeedWith h l c o f r).fCrc = s.fCrc := rfl
@[simp] theorem State.succeedWith_rEcho (h l c o f r : Bool) (s : State) : (s.succeedWith h l c o f r).rEcho = s.rEcho := rfl
@[simp] theorem State.succeedWith_rWeight (h l c o f r : Bool) (s : State) : (s.succeedWith h l c o f r).rWeight = s.rWeight := rfl
@[simp] theorem State.succeedWith_rDiv (h l c o f r : Bool) (s : State) : (s.succeedWith h l c o f r).rDiv = s.rDiv := rfl
@[simp] theorem State.succeedWith_rStable (h l c o f r : Bool) (s : State) : (s.succeedWith h l c o f r).rStable = s.rStable := rfl
@[simp] theorem State.succeedWith_inBuf (h l c o f r : Bool) (s : State) : (s.succeedWith h l c o f r).inBuf = s.inBuf := rfl
@[simp] theorem State.succeedWith_outBuf (h l c o f r : Bool) (s : State) : (s.succeedWith h l c o f r).outBuf = s.outBuf := rfl
@[simp] theorem State.succeedWith_pend (h l c o f r : Bool) (s : State) : (s.succeedWith h l c o f r).pend = Config.freePend s.freeCount := rfl
@[simp] theorem State.succeedWith_latchedLen (h l c o f r : Bool) (s : State) : (s.succeedWith h l c o f r).latchedLen = Config.freeLatchedLen s.freeCount := rfl
@[simp] theorem State.succeedWith_seq (h l c o f r : Bool) (s : State) : (s.succeedWith h l c o f r).seq = unspecifiedSequencer s.freeCount := rfl
@[simp] theorem State.succeedWith_faults (h l c o f r : Bool) (s : State) : (s.succeedWith h l c o f r).faults = s.faults := rfl
@[simp] theorem State.succeedWith_freeCount (h l c o f r : Bool) (s : State) : (s.succeedWith h l c o f r).freeCount = s.freeCount + 1 := rfl
@[simp] theorem State.succeedWith_program (h l c o f r : Bool) (s : State) : (s.succeedWith h l c o f r).program = s.program := rfl
@[simp] theorem State.succeedWith_turns (h l c o f r : Bool) (s : State) : (s.succeedWith h l c o f r).turns = s.turns := rfl
@[simp] theorem State.succeedWith_trace (h l c o f r : Bool) (s : State) : (s.succeedWith h l c o f r).trace = s.trace := rfl

/-! ### raise -/

@[simp] theorem State.raise_ctrl (e : CodecError) (op : Option Instr) (s : State) : (s.raise e op).ctrl = s.ctrl := rfl
@[simp] theorem State.raise_status (e : CodecError) (op : Option Instr) (s : State) : (s.raise e op).status = s.status.failed e op := rfl
@[simp] theorem State.raise_inLen (e : CodecError) (op : Option Instr) (s : State) : (s.raise e op).inLen = s.inLen := rfl
@[simp] theorem State.raise_crcAcc (e : CodecError) (op : Option Instr) (s : State) : (s.raise e op).crcAcc = s.crcAcc := rfl
@[simp] theorem State.raise_outLen (e : CodecError) (op : Option Instr) (s : State) : (s.raise e op).outLen = s.outLen := rfl
@[simp] theorem State.raise_fHdr (e : CodecError) (op : Option Instr) (s : State) : (s.raise e op).fHdr = s.fHdr := rfl
@[simp] theorem State.raise_fLen (e : CodecError) (op : Option Instr) (s : State) : (s.raise e op).fLen = s.fLen := rfl
@[simp] theorem State.raise_fCrc (e : CodecError) (op : Option Instr) (s : State) : (s.raise e op).fCrc = s.fCrc := rfl
@[simp] theorem State.raise_rEcho (e : CodecError) (op : Option Instr) (s : State) : (s.raise e op).rEcho = s.rEcho := rfl
@[simp] theorem State.raise_rWeight (e : CodecError) (op : Option Instr) (s : State) : (s.raise e op).rWeight = s.rWeight := rfl
@[simp] theorem State.raise_rDiv (e : CodecError) (op : Option Instr) (s : State) : (s.raise e op).rDiv = s.rDiv := rfl
@[simp] theorem State.raise_rStable (e : CodecError) (op : Option Instr) (s : State) : (s.raise e op).rStable = s.rStable := rfl
@[simp] theorem State.raise_inBuf (e : CodecError) (op : Option Instr) (s : State) : (s.raise e op).inBuf = s.inBuf := rfl
@[simp] theorem State.raise_outBuf (e : CodecError) (op : Option Instr) (s : State) : (s.raise e op).outBuf = s.outBuf := rfl
@[simp] theorem State.raise_pend (e : CodecError) (op : Option Instr) (s : State) : (s.raise e op).pend = Config.freePend s.freeCount := rfl
@[simp] theorem State.raise_latchedLen (e : CodecError) (op : Option Instr) (s : State) : (s.raise e op).latchedLen = Config.freeLatchedLen s.freeCount := rfl
@[simp] theorem State.raise_seq (e : CodecError) (op : Option Instr) (s : State) : (s.raise e op).seq = unspecifiedSequencer s.freeCount := rfl
@[simp] theorem State.raise_faults (e : CodecError) (op : Option Instr) (s : State) : (s.raise e op).faults = s.faults := rfl
@[simp] theorem State.raise_freeCount (e : CodecError) (op : Option Instr) (s : State) : (s.raise e op).freeCount = s.freeCount + 1 := rfl
@[simp] theorem State.raise_program (e : CodecError) (op : Option Instr) (s : State) : (s.raise e op).program = s.program := rfl
@[simp] theorem State.raise_turns (e : CodecError) (op : Option Instr) (s : State) : (s.raise e op).turns = s.turns := rfl
@[simp] theorem State.raise_trace (e : CodecError) (op : Option Instr) (s : State) : (s.raise e op).trace = s.trace := rfl

/-! ### modelFault -/

@[simp] theorem State.modelFault_ctrl (r : Fault) (s : State) : (s.modelFault r).ctrl = s.ctrl := rfl
@[simp] theorem State.modelFault_status (r : Fault) (s : State) : (s.modelFault r).status = s.status := rfl
@[simp] theorem State.modelFault_inLen (r : Fault) (s : State) : (s.modelFault r).inLen = s.inLen := rfl
@[simp] theorem State.modelFault_crcAcc (r : Fault) (s : State) : (s.modelFault r).crcAcc = s.crcAcc := rfl
@[simp] theorem State.modelFault_outLen (r : Fault) (s : State) : (s.modelFault r).outLen = s.outLen := rfl
@[simp] theorem State.modelFault_fHdr (r : Fault) (s : State) : (s.modelFault r).fHdr = s.fHdr := rfl
@[simp] theorem State.modelFault_fLen (r : Fault) (s : State) : (s.modelFault r).fLen = s.fLen := rfl
@[simp] theorem State.modelFault_fCrc (r : Fault) (s : State) : (s.modelFault r).fCrc = s.fCrc := rfl
@[simp] theorem State.modelFault_rEcho (r : Fault) (s : State) : (s.modelFault r).rEcho = s.rEcho := rfl
@[simp] theorem State.modelFault_rWeight (r : Fault) (s : State) : (s.modelFault r).rWeight = s.rWeight := rfl
@[simp] theorem State.modelFault_rDiv (r : Fault) (s : State) : (s.modelFault r).rDiv = s.rDiv := rfl
@[simp] theorem State.modelFault_rStable (r : Fault) (s : State) : (s.modelFault r).rStable = s.rStable := rfl
@[simp] theorem State.modelFault_inBuf (r : Fault) (s : State) : (s.modelFault r).inBuf = s.inBuf := rfl
@[simp] theorem State.modelFault_outBuf (r : Fault) (s : State) : (s.modelFault r).outBuf = s.outBuf := rfl
@[simp] theorem State.modelFault_pend (r : Fault) (s : State) : (s.modelFault r).pend = s.pend := rfl
@[simp] theorem State.modelFault_latchedLen (r : Fault) (s : State) : (s.modelFault r).latchedLen = s.latchedLen := rfl
@[simp] theorem State.modelFault_seq (r : Fault) (s : State) : (s.modelFault r).seq = s.seq := rfl
@[simp] theorem State.modelFault_faults (r : Fault) (s : State) : (s.modelFault r).faults = addFault s.faults r := rfl
@[simp] theorem State.modelFault_freeCount (r : Fault) (s : State) : (s.modelFault r).freeCount = s.freeCount := rfl
@[simp] theorem State.modelFault_program (r : Fault) (s : State) : (s.modelFault r).program = s.program := rfl
@[simp] theorem State.modelFault_turns (r : Fault) (s : State) : (s.modelFault r).turns = s.turns := rfl
@[simp] theorem State.modelFault_trace (r : Fault) (s : State) : (s.modelFault r).trace = s.trace := rfl

/-! ### storeResult -/

@[simp] theorem State.storeResult_ctrl (bs : List Byte) (s : State) : (s.storeResult bs).ctrl = s.ctrl := rfl
@[simp] theorem State.storeResult_status (bs : List Byte) (s : State) : (s.storeResult bs).status = s.status := rfl
@[simp] theorem State.storeResult_inLen (bs : List Byte) (s : State) : (s.storeResult bs).inLen = s.inLen := rfl
@[simp] theorem State.storeResult_crcAcc (bs : List Byte) (s : State) : (s.storeResult bs).crcAcc = s.crcAcc := rfl
@[simp] theorem State.storeResult_outLen (bs : List Byte) (s : State) : (s.storeResult bs).outLen = some (BitVec.ofNat 32 bs.length) := rfl
@[simp] theorem State.storeResult_fHdr (bs : List Byte) (s : State) : (s.storeResult bs).fHdr = s.fHdr := rfl
@[simp] theorem State.storeResult_fLen (bs : List Byte) (s : State) : (s.storeResult bs).fLen = s.fLen := rfl
@[simp] theorem State.storeResult_fCrc (bs : List Byte) (s : State) : (s.storeResult bs).fCrc = s.fCrc := rfl
@[simp] theorem State.storeResult_rEcho (bs : List Byte) (s : State) : (s.storeResult bs).rEcho = s.rEcho := rfl
@[simp] theorem State.storeResult_rWeight (bs : List Byte) (s : State) : (s.storeResult bs).rWeight = s.rWeight := rfl
@[simp] theorem State.storeResult_rDiv (bs : List Byte) (s : State) : (s.storeResult bs).rDiv = s.rDiv := rfl
@[simp] theorem State.storeResult_rStable (bs : List Byte) (s : State) : (s.storeResult bs).rStable = s.rStable := rfl
@[simp] theorem State.storeResult_inBuf (bs : List Byte) (s : State) : (s.storeResult bs).inBuf = s.inBuf := rfl
@[simp] theorem State.storeResult_outBuf (bs : List Byte) (s : State) : (s.storeResult bs).outBuf = s.outBuf.writeRange 0 bs := rfl
@[simp] theorem State.storeResult_pend (bs : List Byte) (s : State) : (s.storeResult bs).pend = s.pend := rfl
@[simp] theorem State.storeResult_latchedLen (bs : List Byte) (s : State) : (s.storeResult bs).latchedLen = s.latchedLen := rfl
@[simp] theorem State.storeResult_seq (bs : List Byte) (s : State) : (s.storeResult bs).seq = s.seq := rfl
@[simp] theorem State.storeResult_faults (bs : List Byte) (s : State) : (s.storeResult bs).faults = s.faults := rfl
@[simp] theorem State.storeResult_freeCount (bs : List Byte) (s : State) : (s.storeResult bs).freeCount = s.freeCount := rfl
@[simp] theorem State.storeResult_program (bs : List Byte) (s : State) : (s.storeResult bs).program = s.program := rfl
@[simp] theorem State.storeResult_turns (bs : List Byte) (s : State) : (s.storeResult bs).turns = s.turns := rfl
@[simp] theorem State.storeResult_trace (bs : List Byte) (s : State) : (s.storeResult bs).trace = s.trace := rfl

/-! ### loadFrame -/

@[simp] theorem State.loadFrame_ctrl (f : Frame) (s : State) : (s.loadFrame f).ctrl = s.ctrl := rfl
@[simp] theorem State.loadFrame_status (f : Frame) (s : State) : (s.loadFrame f).status = s.status := rfl
@[simp] theorem State.loadFrame_inLen (f : Frame) (s : State) : (s.loadFrame f).inLen = s.inLen := rfl
@[simp] theorem State.loadFrame_crcAcc (f : Frame) (s : State) : (s.loadFrame f).crcAcc = checksum f.payload := rfl
@[simp] theorem State.loadFrame_outLen (f : Frame) (s : State) : (s.loadFrame f).outLen = s.outLen := rfl
@[simp] theorem State.loadFrame_fHdr (f : Frame) (s : State) : (s.loadFrame f).fHdr = some f.header := rfl
@[simp] theorem State.loadFrame_fLen (f : Frame) (s : State) : (s.loadFrame f).fLen = some f.length := rfl
@[simp] theorem State.loadFrame_fCrc (f : Frame) (s : State) : (s.loadFrame f).fCrc = some f.check := rfl
@[simp] theorem State.loadFrame_rEcho (f : Frame) (s : State) : (s.loadFrame f).rEcho = s.rEcho := rfl
@[simp] theorem State.loadFrame_rWeight (f : Frame) (s : State) : (s.loadFrame f).rWeight = s.rWeight := rfl
@[simp] theorem State.loadFrame_rDiv (f : Frame) (s : State) : (s.loadFrame f).rDiv = s.rDiv := rfl
@[simp] theorem State.loadFrame_rStable (f : Frame) (s : State) : (s.loadFrame f).rStable = s.rStable := rfl
@[simp] theorem State.loadFrame_inBuf (f : Frame) (s : State) : (s.loadFrame f).inBuf = s.inBuf := rfl
@[simp] theorem State.loadFrame_outBuf (f : Frame) (s : State) : (s.loadFrame f).outBuf = s.outBuf := rfl
@[simp] theorem State.loadFrame_pend (f : Frame) (s : State) : (s.loadFrame f).pend = s.pend := rfl
@[simp] theorem State.loadFrame_latchedLen (f : Frame) (s : State) : (s.loadFrame f).latchedLen = s.latchedLen := rfl
@[simp] theorem State.loadFrame_seq (f : Frame) (s : State) : (s.loadFrame f).seq = s.seq := rfl
@[simp] theorem State.loadFrame_faults (f : Frame) (s : State) : (s.loadFrame f).faults = s.faults := rfl
@[simp] theorem State.loadFrame_freeCount (f : Frame) (s : State) : (s.loadFrame f).freeCount = s.freeCount := rfl
@[simp] theorem State.loadFrame_program (f : Frame) (s : State) : (s.loadFrame f).program = s.program := rfl
@[simp] theorem State.loadFrame_turns (f : Frame) (s : State) : (s.loadFrame f).turns = s.turns := rfl
@[simp] theorem State.loadFrame_trace (f : Frame) (s : State) : (s.loadFrame f).trace = s.trace := rfl

/-! ### loadRecord -/

@[simp] theorem State.loadRecord_ctrl (r : WeightRecord) (s : State) : (s.loadRecord r).ctrl = s.ctrl := rfl
@[simp] theorem State.loadRecord_status (r : WeightRecord) (s : State) : (s.loadRecord r).status = s.status := rfl
@[simp] theorem State.loadRecord_inLen (r : WeightRecord) (s : State) : (s.loadRecord r).inLen = s.inLen := rfl
@[simp] theorem State.loadRecord_crcAcc (r : WeightRecord) (s : State) : (s.loadRecord r).crcAcc = s.crcAcc := rfl
@[simp] theorem State.loadRecord_outLen (r : WeightRecord) (s : State) : (s.loadRecord r).outLen = s.outLen := rfl
@[simp] theorem State.loadRecord_fHdr (r : WeightRecord) (s : State) : (s.loadRecord r).fHdr = s.fHdr := rfl
@[simp] theorem State.loadRecord_fLen (r : WeightRecord) (s : State) : (s.loadRecord r).fLen = s.fLen := rfl
@[simp] theorem State.loadRecord_fCrc (r : WeightRecord) (s : State) : (s.loadRecord r).fCrc = s.fCrc := rfl
@[simp] theorem State.loadRecord_rEcho (r : WeightRecord) (s : State) : (s.loadRecord r).rEcho = some r.echo := rfl
@[simp] theorem State.loadRecord_rWeight (r : WeightRecord) (s : State) : (s.loadRecord r).rWeight = some r.weight := rfl
@[simp] theorem State.loadRecord_rDiv (r : WeightRecord) (s : State) : (s.loadRecord r).rDiv = some r.division := rfl
@[simp] theorem State.loadRecord_rStable (r : WeightRecord) (s : State) : (s.loadRecord r).rStable = some r.stable := rfl
@[simp] theorem State.loadRecord_inBuf (r : WeightRecord) (s : State) : (s.loadRecord r).inBuf = s.inBuf := rfl
@[simp] theorem State.loadRecord_outBuf (r : WeightRecord) (s : State) : (s.loadRecord r).outBuf = s.outBuf := rfl
@[simp] theorem State.loadRecord_pend (r : WeightRecord) (s : State) : (s.loadRecord r).pend = s.pend := rfl
@[simp] theorem State.loadRecord_latchedLen (r : WeightRecord) (s : State) : (s.loadRecord r).latchedLen = s.latchedLen := rfl
@[simp] theorem State.loadRecord_seq (r : WeightRecord) (s : State) : (s.loadRecord r).seq = s.seq := rfl
@[simp] theorem State.loadRecord_faults (r : WeightRecord) (s : State) : (s.loadRecord r).faults = s.faults := rfl
@[simp] theorem State.loadRecord_freeCount (r : WeightRecord) (s : State) : (s.loadRecord r).freeCount = s.freeCount := rfl
@[simp] theorem State.loadRecord_program (r : WeightRecord) (s : State) : (s.loadRecord r).program = s.program := rfl
@[simp] theorem State.loadRecord_turns (r : WeightRecord) (s : State) : (s.loadRecord r).turns = s.turns := rfl
@[simp] theorem State.loadRecord_trace (r : WeightRecord) (s : State) : (s.loadRecord r).trace = s.trace := rfl

/-! ### observe -/

@[simp] theorem State.observe_ctrl (o : Observation) (s : State) : (s.observe o).ctrl = s.ctrl := rfl
@[simp] theorem State.observe_status (o : Observation) (s : State) : (s.observe o).status = s.status := rfl
@[simp] theorem State.observe_inLen (o : Observation) (s : State) : (s.observe o).inLen = s.inLen := rfl
@[simp] theorem State.observe_crcAcc (o : Observation) (s : State) : (s.observe o).crcAcc = s.crcAcc := rfl
@[simp] theorem State.observe_outLen (o : Observation) (s : State) : (s.observe o).outLen = s.outLen := rfl
@[simp] theorem State.observe_fHdr (o : Observation) (s : State) : (s.observe o).fHdr = s.fHdr := rfl
@[simp] theorem State.observe_fLen (o : Observation) (s : State) : (s.observe o).fLen = s.fLen := rfl
@[simp] theorem State.observe_fCrc (o : Observation) (s : State) : (s.observe o).fCrc = s.fCrc := rfl
@[simp] theorem State.observe_rEcho (o : Observation) (s : State) : (s.observe o).rEcho = s.rEcho := rfl
@[simp] theorem State.observe_rWeight (o : Observation) (s : State) : (s.observe o).rWeight = s.rWeight := rfl
@[simp] theorem State.observe_rDiv (o : Observation) (s : State) : (s.observe o).rDiv = s.rDiv := rfl
@[simp] theorem State.observe_rStable (o : Observation) (s : State) : (s.observe o).rStable = s.rStable := rfl
@[simp] theorem State.observe_inBuf (o : Observation) (s : State) : (s.observe o).inBuf = s.inBuf := rfl
@[simp] theorem State.observe_outBuf (o : Observation) (s : State) : (s.observe o).outBuf = s.outBuf := rfl
@[simp] theorem State.observe_pend (o : Observation) (s : State) : (s.observe o).pend = s.pend := rfl
@[simp] theorem State.observe_latchedLen (o : Observation) (s : State) : (s.observe o).latchedLen = s.latchedLen := rfl
@[simp] theorem State.observe_seq (o : Observation) (s : State) : (s.observe o).seq = s.seq := rfl
@[simp] theorem State.observe_faults (o : Observation) (s : State) : (s.observe o).faults = s.faults := rfl
@[simp] theorem State.observe_freeCount (o : Observation) (s : State) : (s.observe o).freeCount = s.freeCount := rfl
@[simp] theorem State.observe_program (o : Observation) (s : State) : (s.observe o).program = s.program := rfl
@[simp] theorem State.observe_turns (o : Observation) (s : State) : (s.observe o).turns = s.turns := rfl
@[simp] theorem State.observe_trace (o : Observation) (s : State) : (s.observe o).trace = s.trace ++ [o] := rfl

/-! ### takeTurn -/

@[simp] theorem State.takeTurn_ctrl (s : State) : (s.takeTurn).ctrl = s.ctrl := rfl
@[simp] theorem State.takeTurn_status (s : State) : (s.takeTurn).status = s.status := rfl
@[simp] theorem State.takeTurn_inLen (s : State) : (s.takeTurn).inLen = s.inLen := rfl
@[simp] theorem State.takeTurn_crcAcc (s : State) : (s.takeTurn).crcAcc = s.crcAcc := rfl
@[simp] theorem State.takeTurn_outLen (s : State) : (s.takeTurn).outLen = s.outLen := rfl
@[simp] theorem State.takeTurn_fHdr (s : State) : (s.takeTurn).fHdr = s.fHdr := rfl
@[simp] theorem State.takeTurn_fLen (s : State) : (s.takeTurn).fLen = s.fLen := rfl
@[simp] theorem State.takeTurn_fCrc (s : State) : (s.takeTurn).fCrc = s.fCrc := rfl
@[simp] theorem State.takeTurn_rEcho (s : State) : (s.takeTurn).rEcho = s.rEcho := rfl
@[simp] theorem State.takeTurn_rWeight (s : State) : (s.takeTurn).rWeight = s.rWeight := rfl
@[simp] theorem State.takeTurn_rDiv (s : State) : (s.takeTurn).rDiv = s.rDiv := rfl
@[simp] theorem State.takeTurn_rStable (s : State) : (s.takeTurn).rStable = s.rStable := rfl
@[simp] theorem State.takeTurn_inBuf (s : State) : (s.takeTurn).inBuf = s.inBuf := rfl
@[simp] theorem State.takeTurn_outBuf (s : State) : (s.takeTurn).outBuf = s.outBuf := rfl
@[simp] theorem State.takeTurn_pend (s : State) : (s.takeTurn).pend = s.pend := rfl
@[simp] theorem State.takeTurn_latchedLen (s : State) : (s.takeTurn).latchedLen = s.latchedLen := rfl
@[simp] theorem State.takeTurn_seq (s : State) : (s.takeTurn).seq = s.seq := rfl
@[simp] theorem State.takeTurn_faults (s : State) : (s.takeTurn).faults = s.faults := rfl
@[simp] theorem State.takeTurn_freeCount (s : State) : (s.takeTurn).freeCount = s.freeCount := rfl
@[simp] theorem State.takeTurn_program (s : State) : (s.takeTurn).program = s.program := rfl
@[simp] theorem State.takeTurn_turns (s : State) : (s.takeTurn).turns = s.turns.tail := rfl
@[simp] theorem State.takeTurn_trace (s : State) : (s.takeTurn).trace = s.trace := rfl

/-! ### placeCommand -/

@[simp] theorem State.placeCommand_ctrl (w : Word) (s : State) : (s.placeCommand w).ctrl = w := rfl
@[simp] theorem State.placeCommand_status (w : Word) (s : State) : (s.placeCommand w).status = s.status.started := rfl
@[simp] theorem State.placeCommand_inLen (w : Word) (s : State) : (s.placeCommand w).inLen = s.inLen := rfl
@[simp] theorem State.placeCommand_crcAcc (w : Word) (s : State) : (s.placeCommand w).crcAcc = s.crcAcc := rfl
@[simp] theorem State.placeCommand_outLen (w : Word) (s : State) : (s.placeCommand w).outLen = s.outLen := rfl
@[simp] theorem State.placeCommand_fHdr (w : Word) (s : State) : (s.placeCommand w).fHdr = s.fHdr := rfl
@[simp] theorem State.placeCommand_fLen (w : Word) (s : State) : (s.placeCommand w).fLen = s.fLen := rfl
@[simp] theorem State.placeCommand_fCrc (w : Word) (s : State) : (s.placeCommand w).fCrc = s.fCrc := rfl
@[simp] theorem State.placeCommand_rEcho (w : Word) (s : State) : (s.placeCommand w).rEcho = s.rEcho := rfl
@[simp] theorem State.placeCommand_rWeight (w : Word) (s : State) : (s.placeCommand w).rWeight = s.rWeight := rfl
@[simp] theorem State.placeCommand_rDiv (w : Word) (s : State) : (s.placeCommand w).rDiv = s.rDiv := rfl
@[simp] theorem State.placeCommand_rStable (w : Word) (s : State) : (s.placeCommand w).rStable = s.rStable := rfl
@[simp] theorem State.placeCommand_inBuf (w : Word) (s : State) : (s.placeCommand w).inBuf = s.inBuf := rfl
@[simp] theorem State.placeCommand_outBuf (w : Word) (s : State) : (s.placeCommand w).outBuf = s.outBuf := rfl
@[simp] theorem State.placeCommand_pend (w : Word) (s : State) : (s.placeCommand w).pend = w := rfl
@[simp] theorem State.placeCommand_latchedLen (w : Word) (s : State) : (s.placeCommand w).latchedLen = s.inLen := rfl
@[simp] theorem State.placeCommand_seq (w : Word) (s : State) : (s.placeCommand w).seq = s.seq := rfl
@[simp] theorem State.placeCommand_faults (w : Word) (s : State) : (s.placeCommand w).faults = [] := rfl
@[simp] theorem State.placeCommand_freeCount (w : Word) (s : State) : (s.placeCommand w).freeCount = s.freeCount := rfl
@[simp] theorem State.placeCommand_program (w : Word) (s : State) : (s.placeCommand w).program = s.program := rfl
@[simp] theorem State.placeCommand_turns (w : Word) (s : State) : (s.placeCommand w).turns = .codec :: s.turns := rfl
@[simp] theorem State.placeCommand_trace (w : Word) (s : State) : (s.placeCommand w).trace = s.trace := rfl

/-! ### withInternal -/

@[simp] theorem State.withInternal_ctrl (q : Sequencer) (p n : Word) (s : State) : (s.withInternal q p n).ctrl = s.ctrl := rfl
@[simp] theorem State.withInternal_status (q : Sequencer) (p n : Word) (s : State) : (s.withInternal q p n).status = s.status := rfl
@[simp] theorem State.withInternal_inLen (q : Sequencer) (p n : Word) (s : State) : (s.withInternal q p n).inLen = s.inLen := rfl
@[simp] theorem State.withInternal_crcAcc (q : Sequencer) (p n : Word) (s : State) : (s.withInternal q p n).crcAcc = s.crcAcc := rfl
@[simp] theorem State.withInternal_outLen (q : Sequencer) (p n : Word) (s : State) : (s.withInternal q p n).outLen = s.outLen := rfl
@[simp] theorem State.withInternal_fHdr (q : Sequencer) (p n : Word) (s : State) : (s.withInternal q p n).fHdr = s.fHdr := rfl
@[simp] theorem State.withInternal_fLen (q : Sequencer) (p n : Word) (s : State) : (s.withInternal q p n).fLen = s.fLen := rfl
@[simp] theorem State.withInternal_fCrc (q : Sequencer) (p n : Word) (s : State) : (s.withInternal q p n).fCrc = s.fCrc := rfl
@[simp] theorem State.withInternal_rEcho (q : Sequencer) (p n : Word) (s : State) : (s.withInternal q p n).rEcho = s.rEcho := rfl
@[simp] theorem State.withInternal_rWeight (q : Sequencer) (p n : Word) (s : State) : (s.withInternal q p n).rWeight = s.rWeight := rfl
@[simp] theorem State.withInternal_rDiv (q : Sequencer) (p n : Word) (s : State) : (s.withInternal q p n).rDiv = s.rDiv := rfl
@[simp] theorem State.withInternal_rStable (q : Sequencer) (p n : Word) (s : State) : (s.withInternal q p n).rStable = s.rStable := rfl
@[simp] theorem State.withInternal_inBuf (q : Sequencer) (p n : Word) (s : State) : (s.withInternal q p n).inBuf = s.inBuf := rfl
@[simp] theorem State.withInternal_outBuf (q : Sequencer) (p n : Word) (s : State) : (s.withInternal q p n).outBuf = s.outBuf := rfl
@[simp] theorem State.withInternal_pend (q : Sequencer) (p n : Word) (s : State) : (s.withInternal q p n).pend = p := rfl
@[simp] theorem State.withInternal_latchedLen (q : Sequencer) (p n : Word) (s : State) : (s.withInternal q p n).latchedLen = n := rfl
@[simp] theorem State.withInternal_seq (q : Sequencer) (p n : Word) (s : State) : (s.withInternal q p n).seq = q := rfl
@[simp] theorem State.withInternal_faults (q : Sequencer) (p n : Word) (s : State) : (s.withInternal q p n).faults = s.faults := rfl
@[simp] theorem State.withInternal_freeCount (q : Sequencer) (p n : Word) (s : State) : (s.withInternal q p n).freeCount = s.freeCount := rfl
@[simp] theorem State.withInternal_program (q : Sequencer) (p n : Word) (s : State) : (s.withInternal q p n).program = s.program := rfl
@[simp] theorem State.withInternal_turns (q : Sequencer) (p n : Word) (s : State) : (s.withInternal q p n).turns = s.turns := rfl
@[simp] theorem State.withInternal_trace (q : Sequencer) (p n : Word) (s : State) : (s.withInternal q p n).trace = s.trace := rfl

/-! ### resetEvent -/

@[simp] theorem State.resetEvent_ctrl (s : State) : (s.resetEvent).ctrl = State.reset.ctrl := rfl
@[simp] theorem State.resetEvent_status (s : State) : (s.resetEvent).status = State.reset.status := rfl
@[simp] theorem State.resetEvent_inLen (s : State) : (s.resetEvent).inLen = State.reset.inLen := rfl
@[simp] theorem State.resetEvent_crcAcc (s : State) : (s.resetEvent).crcAcc = State.reset.crcAcc := rfl
@[simp] theorem State.resetEvent_outLen (s : State) : (s.resetEvent).outLen = State.reset.outLen := rfl
@[simp] theorem State.resetEvent_fHdr (s : State) : (s.resetEvent).fHdr = State.reset.fHdr := rfl
@[simp] theorem State.resetEvent_fLen (s : State) : (s.resetEvent).fLen = State.reset.fLen := rfl
@[simp] theorem State.resetEvent_fCrc (s : State) : (s.resetEvent).fCrc = State.reset.fCrc := rfl
@[simp] theorem State.resetEvent_rEcho (s : State) : (s.resetEvent).rEcho = State.reset.rEcho := rfl
@[simp] theorem State.resetEvent_rWeight (s : State) : (s.resetEvent).rWeight = State.reset.rWeight := rfl
@[simp] theorem State.resetEvent_rDiv (s : State) : (s.resetEvent).rDiv = State.reset.rDiv := rfl
@[simp] theorem State.resetEvent_rStable (s : State) : (s.resetEvent).rStable = State.reset.rStable := rfl
@[simp] theorem State.resetEvent_inBuf (s : State) : (s.resetEvent).inBuf = State.reset.inBuf := rfl
@[simp] theorem State.resetEvent_outBuf (s : State) : (s.resetEvent).outBuf = State.reset.outBuf := rfl
@[simp] theorem State.resetEvent_pend (s : State) : (s.resetEvent).pend = Config.freePend s.freeCount := rfl
@[simp] theorem State.resetEvent_latchedLen (s : State) : (s.resetEvent).latchedLen = Config.freeLatchedLen s.freeCount := rfl
@[simp] theorem State.resetEvent_seq (s : State) : (s.resetEvent).seq = unspecifiedSequencer s.freeCount := rfl
@[simp] theorem State.resetEvent_faults (s : State) : (s.resetEvent).faults = s.faults := rfl
@[simp] theorem State.resetEvent_freeCount (s : State) : (s.resetEvent).freeCount = s.freeCount + 1 := rfl
@[simp] theorem State.resetEvent_program (s : State) : (s.resetEvent).program = s.program := rfl
@[simp] theorem State.resetEvent_turns (s : State) : (s.resetEvent).turns = s.turns := rfl
@[simp] theorem State.resetEvent_trace (s : State) : (s.resetEvent).trace = s.trace := rfl

/-! ### Status.started -/

@[simp] theorem Status.started_busy (st : Status) : (st.started).busy = true := rfl
@[simp] theorem Status.started_done (st : Status) : (st.started).done = false := rfl
@[simp] theorem Status.started_err (st : Status) : (st.started).err = false := rfl
@[simp] theorem Status.started_errcode (st : Status) : (st.started).errcode = 0 := rfl
@[simp] theorem Status.started_hdrOk (st : Status) : (st.started).hdrOk = st.hdrOk := rfl
@[simp] theorem Status.started_lenOk (st : Status) : (st.started).lenOk = st.lenOk := rfl
@[simp] theorem Status.started_crcOk (st : Status) : (st.started).crcOk = st.crcOk := rfl
@[simp] theorem Status.started_oValid (st : Status) : (st.started).oValid = st.oValid := rfl
@[simp] theorem Status.started_fValid (st : Status) : (st.started).fValid = st.fValid := rfl
@[simp] theorem Status.started_rValid (st : Status) : (st.started).rValid = st.rValid := rfl

/-! ### Status.succeeded -/

@[simp] theorem Status.succeeded_busy (st : Status) : (st.succeeded).busy = false := rfl
@[simp] theorem Status.succeeded_done (st : Status) : (st.succeeded).done = true := rfl
@[simp] theorem Status.succeeded_err (st : Status) : (st.succeeded).err = false := rfl
@[simp] theorem Status.succeeded_errcode (st : Status) : (st.succeeded).errcode = 0 := rfl
@[simp] theorem Status.succeeded_hdrOk (st : Status) : (st.succeeded).hdrOk = st.hdrOk := rfl
@[simp] theorem Status.succeeded_lenOk (st : Status) : (st.succeeded).lenOk = st.lenOk := rfl
@[simp] theorem Status.succeeded_crcOk (st : Status) : (st.succeeded).crcOk = st.crcOk := rfl
@[simp] theorem Status.succeeded_oValid (st : Status) : (st.succeeded).oValid = st.oValid := rfl
@[simp] theorem Status.succeeded_fValid (st : Status) : (st.succeeded).fValid = st.fValid := rfl
@[simp] theorem Status.succeeded_rValid (st : Status) : (st.succeeded).rValid = st.rValid := rfl

/-! ### Status.withChecks -/

@[simp] theorem Status.withChecks_busy (h l c : Bool) (st : Status) : (st.withChecks h l c).busy = st.busy := rfl
@[simp] theorem Status.withChecks_done (h l c : Bool) (st : Status) : (st.withChecks h l c).done = st.done := rfl
@[simp] theorem Status.withChecks_err (h l c : Bool) (st : Status) : (st.withChecks h l c).err = st.err := rfl
@[simp] theorem Status.withChecks_errcode (h l c : Bool) (st : Status) : (st.withChecks h l c).errcode = st.errcode := rfl
@[simp] theorem Status.withChecks_hdrOk (h l c : Bool) (st : Status) : (st.withChecks h l c).hdrOk = h := rfl
@[simp] theorem Status.withChecks_lenOk (h l c : Bool) (st : Status) : (st.withChecks h l c).lenOk = l := rfl
@[simp] theorem Status.withChecks_crcOk (h l c : Bool) (st : Status) : (st.withChecks h l c).crcOk = c := rfl
@[simp] theorem Status.withChecks_oValid (h l c : Bool) (st : Status) : (st.withChecks h l c).oValid = st.oValid := rfl
@[simp] theorem Status.withChecks_fValid (h l c : Bool) (st : Status) : (st.withChecks h l c).fValid = st.fValid := rfl
@[simp] theorem Status.withChecks_rValid (h l c : Bool) (st : Status) : (st.withChecks h l c).rValid = st.rValid := rfl

/-! ### Status.withValid -/

@[simp] theorem Status.withValid_busy (o f r : Bool) (st : Status) : (st.withValid o f r).busy = st.busy := rfl
@[simp] theorem Status.withValid_done (o f r : Bool) (st : Status) : (st.withValid o f r).done = st.done := rfl
@[simp] theorem Status.withValid_err (o f r : Bool) (st : Status) : (st.withValid o f r).err = st.err := rfl
@[simp] theorem Status.withValid_errcode (o f r : Bool) (st : Status) : (st.withValid o f r).errcode = st.errcode := rfl
@[simp] theorem Status.withValid_hdrOk (o f r : Bool) (st : Status) : (st.withValid o f r).hdrOk = st.hdrOk := rfl
@[simp] theorem Status.withValid_lenOk (o f r : Bool) (st : Status) : (st.withValid o f r).lenOk = st.lenOk := rfl
@[simp] theorem Status.withValid_crcOk (o f r : Bool) (st : Status) : (st.withValid o f r).crcOk = st.crcOk := rfl
@[simp] theorem Status.withValid_oValid (o f r : Bool) (st : Status) : (st.withValid o f r).oValid = o := rfl
@[simp] theorem Status.withValid_fValid (o f r : Bool) (st : Status) : (st.withValid o f r).fValid = f := rfl
@[simp] theorem Status.withValid_rValid (o f r : Bool) (st : Status) : (st.withValid o f r).rValid = r := rfl

/-! ### Status.failed -/

@[simp] theorem Status.failed_busy (e : CodecError) (op : Option Instr) (st : Status) : (st.failed e op).busy = false := rfl
@[simp] theorem Status.failed_done (e : CodecError) (op : Option Instr) (st : Status) : (st.failed e op).done = true := rfl
@[simp] theorem Status.failed_err (e : CodecError) (op : Option Instr) (st : Status) : (st.failed e op).err = true := rfl
@[simp] theorem Status.failed_errcode (e : CodecError) (op : Option Instr) (st : Status) : (st.failed e op).errcode = e.code := rfl
@[simp] theorem Status.failed_hdrOk (e : CodecError) (op : Option Instr) (st : Status) : (st.failed e op).hdrOk = false := rfl
@[simp] theorem Status.failed_lenOk (e : CodecError) (op : Option Instr) (st : Status) : (st.failed e op).lenOk = false := rfl
@[simp] theorem Status.failed_crcOk (e : CodecError) (op : Option Instr) (st : Status) : (st.failed e op).crcOk = false := rfl
@[simp] theorem Status.failed_oValid (e : CodecError) (op : Option Instr) (st : Status) : (st.failed e op).oValid = (st.oValid && !clearsValid e op) := rfl
@[simp] theorem Status.failed_fValid (e : CodecError) (op : Option Instr) (st : Status) : (st.failed e op).fValid = (st.fValid && !clearsValid e op) := rfl
@[simp] theorem Status.failed_rValid (e : CodecError) (op : Option Instr) (st : Status) : (st.failed e op).rValid = (st.rValid && !clearsValid e op) := rfl

end Sys2Proof.Machine
end

