-- ==== Sys2Proof/Laws/Memory.lean ====
section
/-! SUPPORT. The laws of the byte buffers: read after write, what a write leaves alone, what a range holds, and that every
operation keeps the canonical form. -/

namespace Sys2Proof.Machine

@[simp] theorem Memory.read_nil (a : Nat) : Memory.read [] a = none := rfl

theorem Memory.read_cons (k : Nat) (b : Byte) (m : Memory) (a : Nat) :
    Memory.read ((k, b) :: m) a = if a = k then some b else Memory.read m a := by
  by_cases h : a = k
  · simp [Memory.read, h]
  · simp [Memory.read, List.lookup_cons, h, beq_eq_false_iff_ne.2 h]

theorem Memory.read_append (m m' : Memory) (a : Nat) :
    Memory.read (m ++ m') a = (Memory.read m a).or (Memory.read m' a) := by
  induction m with
  | nil => simp
  | cons c m ih =>
    obtain ⟨k, b⟩ := c
    by_cases h : a = k <;> simp [Memory.read_cons, h, ih]

/-- A byte that reads as a value is listed. -/
theorem Memory.mem_of_read {m : Memory} {a : Nat} {b : Byte} (h : m.read a = some b) : (a, b) ∈ m := by
  induction m with
  | nil => simp at h
  | cons c m ih =>
    obtain ⟨k, v⟩ := c
    rw [Memory.read_cons] at h
    split at h
    · simp_all
    · exact List.mem_cons_of_mem _ (ih h)

theorem Memory.read_filter (m : Memory) (p : Nat → Bool) (a : Nat) :
    Memory.read (m.filter (fun c => p c.1)) a = if p a then m.read a else none := by
  induction m with
  | nil => simp
  | cons c m ih =>
    obtain ⟨k, b⟩ := c
    by_cases hk : p k <;> by_cases ha : a = k <;> simp_all [Memory.read_cons]

/-! ### One byte -/

@[simp] theorem Memory.read_write_same (m : Memory) (a : Nat) (v : Byte) : (m.write a v).read a = some v := by
  induction m with
  | nil => simp [Memory.write, Memory.read_cons]
  | cons c m ih =>
    obtain ⟨k, b⟩ := c
    simp only [Memory.write]
    split
    · simp [Memory.read_cons]
    · split
      · simp [Memory.read_cons]
      · rename_i h
        simp [Memory.read_cons, h, ih]

theorem Memory.read_write_other (m : Memory) {a a' : Nat} (v : Byte) (h : a' ≠ a) :
    (m.write a v).read a' = m.read a' := by
  induction m with
  | nil => simp [Memory.write, Memory.read_cons, h]
  | cons c m ih =>
    obtain ⟨k, b⟩ := c
    simp only [Memory.write]
    split
    · simp [Memory.read_cons, h]
    · split
      · rename_i _ hk
        subst hk
        simp [Memory.read_cons, h]
      · simp [Memory.read_cons, ih]

theorem Memory.fst_mem_write {m : Memory} {a : Nat} {v : Byte} {c : Host.Cell} (h : c ∈ m.write a v) :
    c.1 = a ∨ c ∈ m := by
  induction m with
  | nil => simp_all [Memory.write]
  | cons d m ih =>
    obtain ⟨k, b⟩ := d
    simp only [Memory.write] at h
    split at h
    · rcases List.mem_cons.1 h with h | h <;> simp_all
    · split at h
      · rcases List.mem_cons.1 h with h | h <;> simp_all
      · rcases List.mem_cons.1 h with h | h
        · simp_all
        · rcases ih h with h | h <;> simp_all

/-- The same write twice is one write (R51). -/
theorem Memory.write_write (m : Memory) (a : Nat) (v : Byte) : (m.write a v).write a v = m.write a v := by
  induction m with
  | nil => simp [Memory.write]
  | cons c m ih =>
    obtain ⟨k, b⟩ := c
    simp only [Memory.write]
    split
    · simp [Memory.write]
    · split
      · simp [Memory.write]
      · rename_i h1 h2
        simp [Memory.write, h1, h2, ih]

/-- A byte write keeps the canonical form. -/
theorem Memory.wf_write {m : Memory} (h : m.wf) (a : Nat) (v : Byte) : (m.write a v).wf := by
  induction m with
  | nil => simp [Memory.write]
  | cons c m ih =>
    obtain ⟨k, b⟩ := c
    obtain ⟨hk, hm⟩ := List.pairwise_cons.1 h
    simp only [Memory.write]
    split
    · rename_i hak
      refine List.pairwise_cons.2 ⟨fun d hd => ?_, h⟩
      rcases List.mem_cons.1 hd with rfl | hd
      · exact hak
      · exact Nat.lt_trans hak (hk d hd)
    · split
      · rename_i hak
        subst hak
        exact List.pairwise_cons.2 ⟨hk, hm⟩
      · refine List.pairwise_cons.2 ⟨fun d hd => ?_, ih hm⟩
        rcases Memory.fst_mem_write hd with hd | hd
        · simp only [hd]; omega
        · exact hk d hd

theorem Memory.below_write {m : Memory} {cap a : Nat} (h : m.below cap) (ha : a < cap) (v : Byte) :
    (m.write a v).below cap := by
  intro c hc
  rcases Memory.fst_mem_write hc with hc | hc
  · omega
  · exact h c hc

/-! ### Ranges -/

@[simp] theorem Memory.readRange_zero (m : Memory) (a : Nat) : m.readRange a 0 = some [] := rfl

/-- A range reads as `bs` exactly when its bytes, in order, read as those of `bs`. -/
theorem Memory.readRange_eq_some (m : Memory) (a n : Nat) (bs : List Byte) :
    m.readRange a n = some bs ↔ bs.length = n ∧ ∀ k (h : k < bs.length), m.read (a + k) = some bs[k] := by
  induction n generalizing a bs with
  | zero =>
    cases bs <;> simp
  | succ n ih =>
    constructor
    · intro h
      simp only [Memory.readRange, bind, Option.bind_eq_some_iff, pure, Option.some.injEq] at h
      obtain ⟨b, hb, cs, hcs, rfl⟩ := h
      obtain ⟨hl, hr⟩ := (ih (a + 1) cs).1 hcs
      refine ⟨by simp [hl], fun k hk => ?_⟩
      cases k with
      | zero => simpa using hb
      | succ k =>
        have := hr k (by simpa using hk)
        simpa [Nat.add_assoc, Nat.add_comm, Nat.add_left_comm] using this
    · rintro ⟨hl, hr⟩
      cases bs with
      | nil => simp at hl
      | cons b cs =>
        have hb := hr 0 (by simp)
        have hcs : m.readRange (a + 1) n = some cs := by
          refine (ih (a + 1) cs).2 ⟨by simpa using hl, fun k hk => ?_⟩
          have := hr (k + 1) (by simpa using hk)
          simpa [Nat.add_assoc, Nat.add_comm, Nat.add_left_comm] using this
        simp only [Nat.add_zero, List.getElem_cons_zero] at hb
        simp [Memory.readRange, hb, hcs]

/-- A range reads as NOVALUE exactly when one of its bytes does. -/
theorem Memory.readRange_eq_none (m : Memory) (a n : Nat) :
    m.readRange a n = none ↔ ∃ k < n, m.read (a + k) = none := by
  induction n generalizing a with
  | zero => simp
  | succ n ih =>
    constructor
    · intro h
      cases hb : m.read a with
      | none => exact ⟨0, by omega, by simpa using hb⟩
      | some b =>
        have : m.readRange (a + 1) n = none := by
          cases hr : m.readRange (a + 1) n with
          | none => rfl
          | some cs => simp [Memory.readRange, hb, hr] at h
        obtain ⟨k, hk, hn⟩ := (ih (a + 1)).1 this
        exact ⟨k + 1, by omega, by simpa [Nat.add_assoc, Nat.add_comm, Nat.add_left_comm] using hn⟩
    · rintro ⟨k, hk, hn⟩
      cases k with
      | zero => simp_all [Memory.readRange]
      | succ k =>
        have : m.readRange (a + 1) n = none :=
          (ih (a + 1)).2 ⟨k, by omega, by simpa [Nat.add_assoc, Nat.add_comm, Nat.add_left_comm] using hn⟩
        cases hb : m.read a <;> simp [Memory.readRange, hb, this]

theorem read_cellsFrom (a : Nat) (bs : List Byte) (k : Nat) :
    Memory.read (cellsFrom a bs) k = if a ≤ k then bs[k - a]? else none := by
  induction bs generalizing a with
  | nil => simp [cellsFrom]
  | cons b bs ih =>
    simp only [cellsFrom, Memory.read_cons, ih]
    by_cases h : k = a
    · simp [h]
    · by_cases h' : a ≤ k
      · have e : k - a = (k - (a + 1)) + 1 := by omega
        rw [if_neg h, if_pos (by omega), if_pos h', e, List.getElem?_cons_succ]
      · simp [h, h', show ¬ a + 1 ≤ k by omega]

theorem mem_cellsFrom {a : Nat} {bs : List Byte} {c : Host.Cell} (h : c ∈ cellsFrom a bs) :
    a ≤ c.1 ∧ c.1 < a + bs.length := by
  induction bs generalizing a with
  | nil => simp [cellsFrom] at h
  | cons b bs ih =>
    rcases List.mem_cons.1 h with rfl | h
    · simp
    · have := ih h
      simp only [List.length_cons]
      omega

theorem wf_cellsFrom (a : Nat) (bs : List Byte) : Memory.wf (cellsFrom a bs) := by
  induction bs generalizing a with
  | nil => exact List.Pairwise.nil
  | cons b bs ih =>
    refine List.pairwise_cons.2 ⟨fun c hc => ?_, ih (a + 1)⟩
    have := mem_cellsFrom hc
    simp only
    omega

/-- What a range write leaves in each byte. -/
theorem Memory.read_writeRange (m : Memory) (a : Nat) (bs : List Byte) (k : Nat) :
    (m.writeRange a bs).read k = if k < a then m.read k else if k < a + bs.length then bs[k - a]? else m.read k := by
  have h1 := Memory.read_filter m (fun x => decide (x < a)) k
  have h2 := Memory.read_filter m (fun x => decide (a + bs.length ≤ x)) k
  simp only [decide_eq_true_eq] at h1 h2
  rw [Memory.writeRange, Memory.read_append, Memory.read_append, h1, h2, read_cellsFrom]
  by_cases ha : k < a
  · simp [ha, show ¬ a ≤ k by omega, show ¬ a + bs.length ≤ k by omega]
  · by_cases hb : k < a + bs.length
    · simp [ha, hb, show a ≤ k by omega, show ¬ a + bs.length ≤ k by omega]
    · have hn : bs[k - a]? = none := by simp; omega
      simp [ha, hb, show a ≤ k by omega, show a + bs.length ≤ k by omega, hn]

/-- A range write keeps the canonical form. -/
theorem Memory.wf_writeRange {m : Memory} (h : m.wf) (a : Nat) (bs : List Byte) : (m.writeRange a bs).wf := by
  unfold Memory.writeRange
  refine List.pairwise_append.2 ⟨List.Pairwise.filter _ h, ?_, ?_⟩
  · refine List.pairwise_append.2 ⟨wf_cellsFrom a bs, List.Pairwise.filter _ h, ?_⟩
    intro c hc d hd
    have := mem_cellsFrom hc
    have := of_decide_eq_true (List.mem_filter.1 hd).2
    omega
  · intro c hc d hd
    have := of_decide_eq_true (List.mem_filter.1 hc).2
    rcases List.mem_append.1 hd with hd | hd
    · have := mem_cellsFrom hd
      omega
    · have := of_decide_eq_true (List.mem_filter.1 hd).2
      omega

theorem Memory.below_writeRange {m : Memory} {cap a : Nat} {bs : List Byte} (h : m.below cap)
    (ha : a + bs.length ≤ cap) : (m.writeRange a bs).below cap := by
  intro c hc
  rcases List.mem_append.1 hc with hc | hc
  · exact h c (List.mem_filter.1 hc).1
  · rcases List.mem_append.1 hc with hc | hc
    · have := mem_cellsFrom hc
      omega
    · exact h c (List.mem_filter.1 hc).1

end Sys2Proof.Machine
end

