-- ==== Sys2Proof/Laws/Operands.lean ====
section
/-! SUPPORT. The bounds of the buffers, the byte orders, and what a frame read from the input buffer is made of. -/

namespace Sys2Proof.Machine

theorem Config.minCap_le_inCap : 65542 ≤ Config.inCap := by
  unfold Config.inCap Config.minCap; omega

theorem Config.inCap_lt : Config.inCap < 2 ^ 32 := by
  have := Config.inCapExtra.isLt
  unfold Config.inCap Config.minCap; omega

theorem Config.minCap_le_outCap : 65542 ≤ Config.outCap := by
  unfold Config.outCap Config.minCap; omega

theorem exceedsInCap_iff (n : Nat) : exceedsInCap n = true ↔ Config.inCap < n := by
  unfold exceedsInCap Config.inCap Config.minCap
  rw [Bool.and_eq_true, decide_eq_true_iff, decide_eq_true_iff]
  omega

theorem outsideIn_iff (a : Nat) : outsideIn a = true ↔ Config.inCap ≤ a := by
  unfold outsideIn Config.inCap Config.minCap
  rw [Bool.and_eq_true, decide_eq_true_iff, decide_eq_true_iff]
  omega

theorem outsideOut_iff (a : Nat) : outsideOut a = true ↔ Config.outCap ≤ a := by
  unfold outsideOut Config.outCap Config.minCap
  rw [Bool.and_eq_true, decide_eq_true_iff, decide_eq_true_iff]
  omega

/-! ### Byte orders -/

@[simp] theorem be16_hi (x y : Byte) : (be16 x y).extractLsb' 8 8 = x := by
  ext i hi
  have h : 8 + i < 16 := by omega
  simp [be16, h, hi]

@[simp] theorem be16_lo (x y : Byte) : (be16 x y).extractLsb' 0 8 = y := by
  ext i hi
  have h : i < 16 := by omega
  simp [be16, h, hi]

/-- Reading back what `bytesBE16` lays out (R11). -/
@[simp] theorem be16_bytes (v : Half) : be16 (v.extractLsb' 8 8) (v.extractLsb' 0 8) = v := by
  ext i hi
  by_cases h : i < 8
  · simp [be16, h, hi]
  · simp [be16, h, hi, show i - 8 < 8 by omega, show 8 + (i - 8) = i by omega]

@[simp] theorem bytesBE16_length (v : Half) : (bytesBE16 v).length = 2 := rfl

@[simp] theorem headerBytes_length : headerBytes.length = 3 := rfl

/-- The three header bytes read back as HEADER (R28). -/
theorem u24_headerBytes : u24 Config.h0 Config.h1 Config.h2 = Config.header := by
  ext i hi
  by_cases h : i < 8
  · simp [u24, Config.h0, Config.h1, Config.h2, h, hi, show i < 16 by omega]
  · by_cases h' : i < 16
    · simp [u24, Config.h0, Config.h1, Config.h2, h, h', hi, show i - 8 < 8 by omega, show 8 + (i - 8) = i by omega]
    · simp [u24, Config.h0, Config.h1, Config.h2, h, h', hi, show ¬ i - 8 < 8 by omega, show i - 16 < 8 by omega,
        show 16 + (i - 16) = i by omega]

/-! ### The operand and the frame -/

/-- The operand reads as `bs` exactly when `bs` is what lies in `IN[0..N)`. -/
theorem State.operand_eq_some (s : State) (bs : List Byte) : s.operand = some bs ↔ s.operandIs bs := by
  rw [State.operand, Memory.readRange_eq_some]
  simp only [State.operandIs, State.inHolds, State.operandLen, Nat.zero_add]
  exact ⟨fun ⟨h, k⟩ => ⟨h.symm, k⟩, fun ⟨h, k⟩ => ⟨h.symm, k⟩⟩

/-- The operand reads as NOVALUE exactly when one of its bytes was never written. -/
theorem State.operand_eq_none (s : State) :
    s.operand = none ↔ ∃ k < s.latchedLen.toNat, s.inBuf.read k = none := by
  rw [State.operand, Memory.readRange_eq_none]
  simp [State.operandLen]

theorem Memory.readBE16_eq_some (m : Memory) (a : Nat) (v : Half) :
    m.readBE16 a = some v ↔ ∃ x y, m.read a = some x ∧ m.read (a + 1) = some y ∧ v = be16 x y := by
  simp only [Memory.readBE16, bind, Option.bind_eq_some_iff, pure, Option.some.injEq]
  constructor
  · rintro ⟨x, hx, y, hy, rfl⟩
    exact ⟨x, y, hx, hy, rfl⟩
  · rintro ⟨x, y, hx, hy, rfl⟩
    exact ⟨x, hx, y, hy, rfl⟩

theorem Memory.readBE16_eq_none (m : Memory) (a : Nat) :
    m.readBE16 a = none ↔ m.read a = none ∨ m.read (a + 1) = none := by
  cases hx : m.read a <;> cases hy : m.read (a + 1) <;> simp [Memory.readBE16, hx, hy]

theorem Memory.readU24_eq_some (m : Memory) (a : Nat) (v : U24) :
    m.readU24 a = some v ↔ ∃ x y z, m.read a = some x ∧ m.read (a + 1) = some y ∧ m.read (a + 2) = some z ∧
      v = u24 x y z := by
  simp only [Memory.readU24, bind, Option.bind_eq_some_iff, pure, Option.some.injEq]
  constructor
  · rintro ⟨x, hx, y, hy, z, hz, rfl⟩
    exact ⟨x, y, z, hx, hy, hz, rfl⟩
  · rintro ⟨x, y, z, hx, hy, hz, rfl⟩
    exact ⟨x, hx, y, hy, z, hz, rfl⟩

theorem Memory.readLE32_eq_some (m : Memory) (a : Nat) (v : Word) :
    m.readLE32 a = some v ↔ ∃ b0 b1 b2 b3, m.read a = some b0 ∧ m.read (a + 1) = some b1 ∧ m.read (a + 2) = some b2 ∧
      m.read (a + 3) = some b3 ∧ v = le32 b0 b1 b2 b3 := by
  simp only [Memory.readLE32, bind, Option.bind_eq_some_iff, pure, Option.some.injEq]
  constructor
  · rintro ⟨b0, h0, b1, h1, b2, h2, b3, h3, rfl⟩
    exact ⟨b0, b1, b2, b3, h0, h1, h2, h3, rfl⟩
  · rintro ⟨b0, b1, b2, b3, h0, h1, h2, h3, rfl⟩
    exact ⟨b0, h0, b1, h1, b2, h2, b3, h3, rfl⟩

/-- A frame is read exactly when each of its fields is. -/
theorem Memory.frameAt_eq_some (m : Memory) (n : Nat) (f : Frame) :
    m.frameAt n = some f ↔ m.readU24 0 = some f.header ∧ m.readBE16 3 = some f.length ∧
      m.readRange 5 n = some f.payload ∧ m.readBE16 (5 + n) = some f.check := by
  obtain ⟨h, l, p, c⟩ := f
  simp only [Memory.frameAt, bind, Option.bind_eq_some_iff, pure, Option.some.injEq, Frame.mk.injEq]
  constructor
  · rintro ⟨h', hh, l', hl, p', hp, c', hc, rfl, rfl, rfl, rfl⟩
    exact ⟨hh, hl, hp, hc⟩
  · rintro ⟨hh, hl, hp, hc⟩
    exact ⟨h, hh, l, hl, p, hp, c, hc, rfl, rfl, rfl, rfl⟩

/-- A weight record is read exactly when each of its fields is. -/
theorem Memory.recordAt_eq_some (m : Memory) (r : WeightRecord) :
    m.recordAt = some r ↔ m.read 5 = some r.echo ∧ m.readLE32 6 = some r.weight ∧ m.read 10 = some r.division ∧
      m.read 11 = some r.stable := by
  obtain ⟨e, w, d, t⟩ := r
  simp only [Memory.recordAt, bind, Option.bind_eq_some_iff, pure, Option.some.injEq, WeightRecord.mk.injEq]
  constructor
  · rintro ⟨e', he, w', hw, d', hd, t', ht, rfl, rfl, rfl, rfl⟩
    exact ⟨he, hw, hd, ht⟩
  · rintro ⟨he, hw, hd, ht⟩
    exact ⟨e, he, w, hw, d, hd, t, ht, rfl, rfl, rfl, rfl⟩

/-- When all `7 + n` bytes are written the frame is read. -/
theorem Memory.frameAt_isSome (m : Memory) (n : Nat) (h : ∀ k < 7 + n, (m.read k).isSome = true) :
    (m.frameAt n).isSome = true := by
  have hr : ∀ k < 7 + n, ∃ b, m.read k = some b := fun k hk => Option.isSome_iff_exists.1 (h k hk)
  obtain ⟨b0, h0⟩ := hr 0 (by omega)
  obtain ⟨b1, h1⟩ := hr 1 (by omega)
  obtain ⟨b2, h2⟩ := hr 2 (by omega)
  obtain ⟨b3, h3⟩ := hr 3 (by omega)
  obtain ⟨b4, h4⟩ := hr 4 (by omega)
  obtain ⟨c0, g0⟩ := hr (5 + n) (by omega)
  obtain ⟨c1, g1⟩ := hr (5 + n + 1) (by omega)
  cases hp : m.readRange 5 n with
  | none =>
    obtain ⟨k, hk, hn⟩ := (Memory.readRange_eq_none m 5 n).1 hp
    obtain ⟨b, hb⟩ := hr (5 + k) (by omega)
    simp [hb] at hn
  | some p => simp [Memory.frameAt, Memory.readU24, Memory.readBE16, h0, h1, h2, h3, h4, g0, g1, hp]

/-- A frame that lacks one of its bytes is NOVALUE (R38). -/
theorem Memory.frameAt_eq_none {m : Memory} {n : Nat} (h : ∃ k < n + 7, m.read k = none) : m.frameAt n = none := by
  cases hf : m.frameAt n with
  | none => rfl
  | some f =>
    obtain ⟨h1, h2, h3, h4⟩ := (Memory.frameAt_eq_some _ _ _).1 hf
    obtain ⟨x, y, z, hx, hy, hz, -⟩ := (Memory.readU24_eq_some _ _ _).1 h1
    obtain ⟨l, l', hl, hl', -⟩ := (Memory.readBE16_eq_some _ _ _).1 h2
    obtain ⟨c, c', hc, hc', -⟩ := (Memory.readBE16_eq_some _ _ _).1 h4
    obtain ⟨-, hp⟩ := (Memory.readRange_eq_some _ _ _ _).1 h3
    obtain ⟨k, hk, hn⟩ := h
    exfalso
    by_cases a : k < 5
    · interval_cases k <;> simp_all
    · by_cases b : k < 5 + n
      · have := hp (k - 5) (by have := ((Memory.readRange_eq_some _ _ _ _).1 h3).1; omega)
        rw [show 5 + (k - 5) = k by omega, hn] at this
        cases this
      · have : k = 5 + n ∨ k = 5 + n + 1 := by omega
        rcases this with rfl | rfl <;> simp_all

end Sys2Proof.Machine
end

