-- ==== Sys2Proof/Laws/Checksum.lean ====
section
/-! SUPPORT. The small laws of the Checksum Engine. -/

namespace Sys2Proof.Machine

@[simp] theorem engineLoop_zero (temp acc : Half) : engineLoop 0 temp acc = acc := rfl

theorem engineLoop_succ (n : Nat) (temp acc : Half) :
    engineLoop (n + 1) temp acc = engineLoop n (temp <<< 1) (nextAcc temp acc) := rfl

@[simp] theorem checksum_nil : checksum [] = 0 := rfl

/-- The checksum of a sequence from the checksum of all but its last byte (R74). -/
theorem checksum_concat (s : List Byte) (b : Byte) : checksum (s ++ [b]) = crcStep (checksum s) b := by
  simp [checksum]

theorem checksum_append (s t : List Byte) : checksum (s ++ t) = t.foldl crcStep (checksum s) := by
  simp [checksum]

@[simp] theorem encodeFrame_length (cmd : List Byte) : (encodeFrame cmd).length = cmd.length + 7 := by
  simp [encodeFrame]
  omega

end Sys2Proof.Machine
end

