-- ==== Sys2Proof/Laws/Decode.lean ====
section
/-! SUPPORT. The fields of a command word built by the encoder. -/

namespace Sys2Proof

@[simp] theorem opField_commandWord (imm8 op : Byte) : opField (commandWord imm8 op) = op := by
  unfold opField commandWord
  ext i hi
  have : i < 32 := by omega
  simp [hi, this]

@[simp] theorem imm8Field_commandWord (imm8 op : Byte) : imm8Field (commandWord imm8 op) = imm8 := by
  unfold imm8Field commandWord
  ext i hi
  have h : 8 + i < 32 := by omega
  simp [h, hi]

@[simp] theorem rsvField_commandWord (imm8 op : Byte) : rsvField (commandWord imm8 op) = 0 := by
  unfold rsvField commandWord
  ext i hi
  have h : ¬ 16 + i < 8 := by omega
  have h' : 8 ≤ 16 + i - 8 := by omega
  simp [h, BitVec.getLsbD_of_ge imm8 _ h', BitVec.getLsbD_of_ge op (16 + i) (by omega)]

/-- A word is made of its three fields. -/
theorem eq_commandWord_of_rsv {w : Word} (h : rsvField w = 0) : w = commandWord (imm8Field w) (opField w) := by
  unfold commandWord imm8Field opField
  have h' : ∀ i, w.getLsbD (16 + i) = false := by
    intro i
    by_cases hi : i < 16
    · have := congrArg (fun x => BitVec.getLsbD x i) h
      simpa [rsvField, hi] using this
    · exact BitVec.getLsbD_of_ge _ _ (by omega)
  ext i hi
  by_cases h8 : i < 8
  · simp [h8, hi]
  · by_cases h16 : i < 16
    · simp [h8, hi, show i - 8 < 8 by omega, show 8 + (i - 8) = i by omega]
    · have := h' (i - 16)
      rw [show 16 + (i - 16) = i by omega] at this
      simp [← BitVec.getLsbD_eq_getElem, this, h8, hi, show ¬ i - 8 < 8 by omega]

/-- Every operation code is listed: the operation of a code in the table (R58). -/
theorem opWithoutOperand_eq_some {op : Byte} {i : Instr} (h : opWithoutOperand op = some i) :
    op = opField (encode i) ∧ imm8Field (encode i) = 0 ∧ op ≠ opCrcByte := by
  unfold opWithoutOperand at h
  repeat' split at h
  all_goals first
    | (cases h; subst_vars; exact ⟨by simp [encode], by simp [encode], by decide⟩)
    | cases h

end Sys2Proof
end

