-- ==== Sys2Proof/Laws/Exec.lean ====
section
/-! SUPPORT. What each operation can do: one equation a case of its checks (60_exceptions.md R93), and one lemma that says how any
operation can end. -/

namespace Sys2Proof.Machine

/-! ### CRC.BUF (R79) -/

theorem execCrcBuf_lenRange {s : State} (h : Config.inCap < s.latchedLen.toNat) :
    execCrcBuf s = .next (s.raise .lenRange (some .crcBuf)) := by
  rw [execCrcBuf, State.operandLen, if_pos ((exceedsInCap_iff _).2 h)]

theorem execCrcBuf_noValue {s : State} (h : s.latchedLen.toNat ≤ Config.inCap) (hn : s.operand = none) :
    execCrcBuf s = .next (s.modelFault .noValueRead) := by
  rw [execCrcBuf, State.operandLen, if_neg (by rw [exceedsInCap_iff]; omega), hn]

theorem execCrcBuf_done {s : State} {bs : List Byte} (h : s.latchedLen.toNat ≤ Config.inCap) (hb : s.operandIs bs) :
    execCrcBuf s = .next { s with crcAcc := checksum bs }.succeedKeeping := by
  rw [execCrcBuf, State.operandLen, if_neg (by rw [exceedsInCap_iff]; omega), (State.operand_eq_some s bs).2 hb]

/-! ### FRM.ENC (R80) -/

theorem execFrmEnc_lenRange {s : State} (h : Config.inCap < s.latchedLen.toNat ∨ 65535 < s.latchedLen.toNat) :
    execFrmEnc s = .next (s.raise .lenRange (some .frmEnc)) := by
  rw [execFrmEnc, State.operandLen]
  by_cases hc : exceedsInCap s.latchedLen.toNat = true
  · rw [if_pos hc]
  · rw [if_neg hc, if_pos]
    rcases h with h | h
    · exact absurd ((exceedsInCap_iff _).2 h) hc
    · exact h

theorem not_exceeds_of_le {n : Nat} (h : n ≤ 65535) : ¬ exceedsInCap n = true := by
  rw [exceedsInCap_iff]
  have := Config.minCap_le_inCap
  omega

theorem execFrmEnc_noValue {s : State} (h : s.latchedLen.toNat ≤ 65535) (hn : s.operand = none) :
    execFrmEnc s = .next (s.modelFault .noValueRead) := by
  rw [execFrmEnc, State.operandLen, if_neg (not_exceeds_of_le h), if_neg (by omega), hn]

theorem execFrmEnc_done {s : State} {cmd : List Byte} (h : cmd.length ≤ 65535) (hb : s.operandIs cmd) :
    execFrmEnc s = .next ({ s with crcAcc := checksum cmd }.storeResult (encodeFrame cmd)
      |>.succeedWith false false false true false false) := by
  have hl : s.latchedLen.toNat ≤ 65535 := by rw [hb.1]; exact h
  rw [execFrmEnc, State.operandLen, if_neg (not_exceeds_of_le hl), if_neg (by omega), (State.operand_eq_some s cmd).2 hb]

/-! ### FRM.DEC (R82) -/

theorem execFrmDec_lenRange {s : State} (h : Config.inCap < s.latchedLen.toNat) :
    execFrmDec s = .next (s.raise .lenRange (some .frmDec)) := by
  rw [execFrmDec, State.operandLen, if_pos ((exceedsInCap_iff _).2 h)]

theorem execFrmDec_short {s : State} (h : s.latchedLen.toNat < 7) :
    execFrmDec s = .next (s.raise .malformedFrame (some .frmDec)) := by
  rw [execFrmDec, State.operandLen, if_neg (not_exceeds_of_le (by omega)), if_pos h]

theorem execFrmDec_noLength {s : State} (h : s.latchedLen.toNat ≤ Config.inCap) (h7 : 7 ≤ s.latchedLen.toNat)
    (hn : s.inBuf.readBE16 3 = none) : execFrmDec s = .next (s.modelFault .noValueRead) := by
  rw [execFrmDec, State.operandLen, if_neg (by rw [exceedsInCap_iff]; omega), if_neg (by omega), hn]

theorem execFrmDec_mismatch {s : State} {len : Half} (h : s.latchedLen.toNat ≤ Config.inCap)
    (h7 : 7 ≤ s.latchedLen.toNat) (hl : s.inBuf.readBE16 3 = some len) (hne : len.toNat ≠ s.latchedLen.toNat - 7) :
    execFrmDec s = .next (s.raise .malformedFrame (some .frmDec)) := by
  rw [execFrmDec, State.operandLen, if_neg (by rw [exceedsInCap_iff]; omega), if_neg (by omega), hl]
  exact if_pos hne

theorem execFrmDec_noValue {s : State} {len : Half} (h : s.latchedLen.toNat = len.toNat + 7)
    (hl : s.inBuf.readBE16 3 = some len) (hn : s.inBuf.frameAt len.toNat = none) :
    execFrmDec s = .next (s.modelFault .noValueRead) := by
  have hlt := len.isLt
  have hc := Config.minCap_le_inCap
  rw [execFrmDec, State.operandLen, if_neg (by rw [exceedsInCap_iff]; omega), if_neg (by omega), hl]
  simp only
  rw [if_neg (by omega), hn]

theorem execFrmDec_done {s : State} {f : Frame} (h : s.latchedLen.toNat = f.length.toNat + 7)
    (hf : s.inBuf.frameAt f.length.toNat = some f) :
    execFrmDec s = .next ((s.loadFrame f).storeResult f.payload
      |>.succeedWith f.headerOk true f.checksumOk true true false) := by
  have hlt := f.length.isLt
  have hc := Config.minCap_le_inCap
  have hl := ((Memory.frameAt_eq_some _ _ _).1 hf).2.1
  rw [execFrmDec, State.operandLen, if_neg (by rw [exceedsInCap_iff]; omega), if_neg (by omega), hl]
  simp only
  rw [if_neg (by omega), hf]

/-! ### RSP.DEC (R85) -/

theorem execRspDec_lenRange {s : State} (h : Config.inCap < s.latchedLen.toNat) :
    execRspDec s = .next (s.raise .lenRange (some .rspDec)) := by
  rw [execRspDec, State.operandLen, if_pos ((exceedsInCap_iff _).2 h)]

theorem execRspDec_wrongSize {s : State} (h : s.latchedLen.toNat ≤ Config.inCap) (hn : s.latchedLen.toNat ≠ 14) :
    execRspDec s = .next (s.raise .malformedFrame (some .rspDec)) := by
  rw [execRspDec, State.operandLen, if_neg (by rw [exceedsInCap_iff]; omega), if_pos hn]

theorem execRspDec_done {s : State} {f : Frame} {r : WeightRecord} (h : s.latchedLen.toNat = 14)
    (hf : s.inBuf.frameAt 7 = some f) (hr : s.inBuf.recordAt = some r) :
    execRspDec s = .next ((s.loadFrame f).loadRecord r
      |>.succeedWith f.headerOk f.responseLengthOk f.checksumOk false true true) := by
  rw [execRspDec, State.operandLen, if_neg (not_exceeds_of_le (by omega)), if_neg (by omega), responsePayloadLen, hf, hr]

theorem execRspDec_noValue {s : State} (h : s.latchedLen.toNat = 14)
    (hn : s.inBuf.frameAt 7 = none ∨ s.inBuf.recordAt = none) :
    execRspDec s = .next (s.modelFault .noValueRead) := by
  rw [execRspDec, State.operandLen, if_neg (not_exceeds_of_le (by omega)), if_neg (by omega), responsePayloadLen]
  rcases hn with hn | hn
  · rw [hn]
  · rw [hn]
    cases s.inBuf.frameAt 7 <;> rfl

/-! ### Any operation -/

/-- How an operation succeeds: what it read, and the state it leaves. -/
def ExecSuccess (s t : State) : Instr → Prop
  | .crcInit => t = { s with crcAcc := 0 }.succeedKeeping
  | .crcByte b => t = { s with crcAcc := crcStep s.crcAcc b }.succeedKeeping
  | .crcBuf => ∃ bs, s.operandIs bs ∧ bs.length ≤ Config.inCap ∧ t = { s with crcAcc := checksum bs }.succeedKeeping
  | .frmEnc => ∃ cmd, s.operandIs cmd ∧ cmd.length ≤ 65535 ∧
      t = ({ s with crcAcc := checksum cmd }.storeResult (encodeFrame cmd)
        |>.succeedWith false false false true false false)
  | .frmDec => ∃ f, s.latchedLen.toNat = f.length.toNat + 7 ∧ s.inBuf.frameAt f.length.toNat = some f ∧
      t = ((s.loadFrame f).storeResult f.payload |>.succeedWith f.headerOk true f.checksumOk true true false)
  | .rspDec => ∃ f r, s.latchedLen.toNat = 14 ∧ s.inBuf.frameAt 7 = some f ∧ s.inBuf.recordAt = some r ∧
      t = ((s.loadFrame f).loadRecord r
        |>.succeedWith f.headerOk f.responseLengthOk f.checksumOk false true true)

/-- Every operation answers a next state: it ends in an error of its own, in the model fault NoValueRead, or succeeds. -/
theorem exec_cases (i : Instr) (s : State) :
    ∃ t, exec i s = .next t ∧
      ((∃ e, e ≠ .illegalOp ∧ t = s.raise e (some i)) ∨ t = s.modelFault .noValueRead ∨ ExecSuccess s t i) := by
  cases i with
  | crcInit => exact ⟨_, rfl, .inr (.inr rfl)⟩
  | crcByte b => exact ⟨_, rfl, .inr (.inr rfl)⟩
  | crcBuf =>
    by_cases h : Config.inCap < s.latchedLen.toNat
    · exact ⟨_, execCrcBuf_lenRange h, .inl ⟨_, by decide, rfl⟩⟩
    · cases ho : s.operand with
      | none => exact ⟨_, execCrcBuf_noValue (by omega) ho, .inr (.inl rfl)⟩
      | some bs =>
        have hb := (State.operand_eq_some s bs).1 ho
        exact ⟨_, execCrcBuf_done (by omega) hb, .inr (.inr ⟨bs, hb, by have := hb.1; omega, rfl⟩)⟩
  | frmEnc =>
    by_cases h : Config.inCap < s.latchedLen.toNat ∨ 65535 < s.latchedLen.toNat
    · exact ⟨_, execFrmEnc_lenRange h, .inl ⟨_, by decide, rfl⟩⟩
    · cases ho : s.operand with
      | none => exact ⟨_, execFrmEnc_noValue (by omega) ho, .inr (.inl rfl)⟩
      | some cmd =>
        have hb := (State.operand_eq_some s cmd).1 ho
        have hl : cmd.length ≤ 65535 := by have := hb.1; omega
        exact ⟨_, execFrmEnc_done hl hb, .inr (.inr ⟨cmd, hb, hl, rfl⟩)⟩
  | frmDec =>
    by_cases h : Config.inCap < s.latchedLen.toNat
    · exact ⟨_, execFrmDec_lenRange h, .inl ⟨_, by decide, rfl⟩⟩
    · by_cases h7 : s.latchedLen.toNat < 7
      · exact ⟨_, execFrmDec_short h7, .inl ⟨_, by decide, rfl⟩⟩
      · cases hl : s.inBuf.readBE16 3 with
        | none => exact ⟨_, execFrmDec_noLength (by omega) (by omega) hl, .inr (.inl rfl)⟩
        | some len =>
          by_cases hne : len.toNat = s.latchedLen.toNat - 7
          · cases hf : s.inBuf.frameAt len.toNat with
            | none => exact ⟨_, execFrmDec_noValue (by omega) hl hf, .inr (.inl rfl)⟩
            | some f =>
              have hlen : f.length = len := by
                have := ((Memory.frameAt_eq_some _ _ _).1 hf).2.1
                rw [hl] at this
                exact (Option.some.inj this).symm
              subst hlen
              exact ⟨_, execFrmDec_done (by omega) hf, .inr (.inr ⟨f, by omega, hf, rfl⟩)⟩
          · exact ⟨_, execFrmDec_mismatch (by omega) (by omega) hl hne, .inl ⟨_, by decide, rfl⟩⟩
  | rspDec =>
    by_cases h : Config.inCap < s.latchedLen.toNat
    · exact ⟨_, execRspDec_lenRange h, .inl ⟨_, by decide, rfl⟩⟩
    · by_cases h14 : s.latchedLen.toNat = 14
      · cases hf : s.inBuf.frameAt 7 with
        | none => exact ⟨_, execRspDec_noValue h14 (.inl hf), .inr (.inl rfl)⟩
        | some f =>
          cases hr : s.inBuf.recordAt with
          | none => exact ⟨_, execRspDec_noValue h14 (.inr hr), .inr (.inl rfl)⟩
          | some r => exact ⟨_, execRspDec_done h14 hf hr, .inr (.inr ⟨f, r, h14, hf, hr, rfl⟩)⟩
      · exact ⟨_, execRspDec_wrongSize (by omega) h14, .inl ⟨_, by decide, rfl⟩⟩

end Sys2Proof.Machine
end

