-- ==== Sys2Proof/Laws/HostPort.lean ====
section
/-! SUPPORT. What a host access can do. -/

namespace Sys2Proof.Machine

@[simp] theorem Reg.at_offset (r : Reg) : Reg.at r.offset 32 = some r := by
  cases r <;> rfl

/-- A register is named only by its own offset and a width of 32 bits (R17). -/
theorem Reg.at_eq_some {o w : Nat} {r : Reg} (h : Reg.at o w = some r) : o = r.offset ∧ w = 32 := by
  unfold Reg.at at h
  split at h
  · rename_i hw
    have := List.find?_some h
    exact ⟨by simpa using (beq_iff_eq.1 this).symm, hw⟩
  · cases h

/-- Any other width names no register (R17). -/
theorem Reg.at_width {o w : Nat} (h : w ≠ 32) : Reg.at o w = none := if_neg h

theorem mem_addFault {fs : List Fault} {r q : Fault} : q ∈ addFault fs r ↔ q ∈ fs ∨ q = r := by
  unfold addFault
  split
  · rename_i h
    constructor
    · exact .inl
    · rintro (h' | rfl)
      · exact h'
      · exact h
  · simp

theorem nodup_addFault {fs : List Fault} (h : fs.Nodup) (r : Fault) : (addFault fs r).Nodup := by
  unfold addFault
  split
  · exact h
  · rename_i hr
    exact List.nodup_append.2 ⟨h, by simp, fun a ha b hb hab => hr (by simp_all)⟩

/-- An access that breaks no rule has its effect. -/
theorem State.hostAccess_allowed {x : Access} {s : State} (h : x.reasons s = []) : s.hostAccess x = x.perform s := by
  rw [State.hostAccess, h]

theorem foldl_modelFault (rs : List Fault) (s : State) :
    rs.foldl (fun t f => t.modelFault f) s = { s with faults := rs.foldl addFault s.faults } := by
  induction rs generalizing s with
  | nil => rfl
  | cons r rs ih => simp only [List.foldl_cons]; rw [ih]; rfl

/-- An access that breaks a rule adds its reasons to FAULTS and does nothing else (R97). -/
theorem State.hostAccess_faults {x : Access} {s : State} (h : x.reasons s ≠ []) :
    s.hostAccess x = { s with faults := (x.reasons s).foldl addFault s.faults } := by
  unfold State.hostAccess
  cases hr : x.reasons s with
  | nil => exact absurd hr h
  | cons r rs => simp only; rw [foldl_modelFault]; rfl

theorem mem_foldl_addFault {rs fs : List Fault} {q : Fault} : q ∈ rs.foldl addFault fs ↔ q ∈ fs ∨ q ∈ rs := by
  induction rs generalizing fs with
  | nil => simp
  | cons r rs ih => simp only [List.foldl_cons, ih, mem_addFault, List.mem_cons]; tauto

theorem nodup_foldl_addFault {rs fs : List Fault} (h : fs.Nodup) : (rs.foldl addFault fs).Nodup := by
  induction rs generalizing fs with
  | nil => exact h
  | cons r rs ih => exact ih (nodup_addFault h r)

/-- The reasons an access raises, one by one (R97). -/
theorem Access.badAddress_mem (x : Access) (s : State) : Fault.badAddress ∈ x.reasons s ↔ x.addressExists = false := by
  unfold Access.reasons
  cases x.addressExists <;> cases s.status.busy <;> cases x.allowedWhileBusy <;> cases x.readsNoValue s <;> decide

theorem Access.hostHazard_mem (x : Access) (s : State) :
    Fault.hostHazard ∈ x.reasons s ↔ s.status.busy = true ∧ x.allowedWhileBusy = false := by
  unfold Access.reasons
  cases x.addressExists <;> cases s.status.busy <;> cases x.allowedWhileBusy <;> cases x.readsNoValue s <;> decide

theorem Access.noValueRead_mem (x : Access) (s : State) : Fault.noValueRead ∈ x.reasons s ↔ x.readsNoValue s = true := by
  unfold Access.reasons
  cases x.addressExists <;> cases s.status.busy <;> cases x.allowedWhileBusy <;> cases x.readsNoValue s <;> decide

/-- An access to IN_BUF names a cell exactly when it is a byte below IN_CAP (R42, D4). -/
theorem Access.inCell_exists {a w : Nat} : (w == 8 && !outsideIn a) = true ↔ w = 8 ∧ a < Config.inCap := by
  rw [Bool.and_eq_true, beq_iff_eq, Bool.not_eq_true', ← Bool.not_eq_true, outsideIn_iff, Nat.not_le]

/-- An access to OUT_BUF names a cell exactly when it is a byte below OUT_CAP (R43, D4). -/
theorem Access.outCell_exists {a w : Nat} : (w == 8 && !outsideOut a) = true ↔ w = 8 ∧ a < Config.outCap := by
  rw [Bool.and_eq_true, beq_iff_eq, Bool.not_eq_true', ← Bool.not_eq_true, outsideOut_iff, Nat.not_le]

/-- An access breaks no rule exactly when its cell exists, the busy window allows it and it reads a value. -/
theorem Access.reasons_eq_nil (x : Access) (s : State) :
    x.reasons s = [] ↔
      x.addressExists = true ∧ (s.status.busy = true → x.allowedWhileBusy = true) ∧ x.readsNoValue s = false := by
  unfold Access.reasons
  cases x.addressExists <;> cases s.status.busy <;> cases x.allowedWhileBusy <;> cases x.readsNoValue s <;> decide

/-- The effect of an access that breaks no rule leaves FAULTS. -/
theorem Access.perform_faults (x : Access) (s : State) : (x.perform s).faults = s.faults := by
  cases x with
  | readReg o w =>
    simp only [Access.perform]
    split
    · split <;> rfl
    · rfl
  | writeReg o w v =>
    simp only [Access.perform]
    split
    · rename_i r _
      cases r <;> rfl
    · rfl
  | readIn a w => simp only [Access.perform]; split <;> rfl
  | writeIn a w v => rfl
  | readOut a w => simp only [Access.perform]; split <;> rfl
  | writeOut a w v => rfl

/-- FAULTS after an access: what it held and the reasons the access raises (R97). -/
theorem State.mem_hostAccess_faults (x : Access) (s : State) (q : Fault) :
    q ∈ (s.hostAccess x).faults ↔ q ∈ s.faults ∨ q ∈ x.reasons s := by
  by_cases h : x.reasons s = []
  · rw [State.hostAccess_allowed h, Access.perform_faults, h]
    simp
  · rw [State.hostAccess_faults h]
    exact mem_foldl_addFault

/-- A register read that breaks no rule: the host sees the register's value, and nothing else changes (R17, R51, R107). -/
theorem State.hostAccess_readReg {r : Reg} {v : Word} {s : State} (hv : s.regValue r = some v)
    (hb : s.status.busy = true → r.readableWhileBusy = true) :
    s.hostAccess (.readReg r.offset 32) = s.observe (.reg r v) := by
  have h : (Access.readReg r.offset 32).reasons s = [] :=
    (Access.reasons_eq_nil _ _).2 ⟨by simp [Access.addressExists], by simpa [Access.allowedWhileBusy] using hb,
      by simp [Access.readsNoValue, hv]⟩
  rw [State.hostAccess_allowed h]
  simp [Access.perform, hv]

/-- A byte read of OUT_BUF that breaks no rule (R43, R51). -/
theorem State.hostAccess_readOut {a : Nat} {v : Byte} {s : State} (hv : s.outByte a = some v) (ha : a < Config.outCap)
    (hb : s.status.busy = false) : s.hostAccess (.readOut a 8) = s.observe (.outByte a v) := by
  have h : (Access.readOut a 8).reasons s = [] :=
    (Access.reasons_eq_nil _ _).2 ⟨Access.outCell_exists.2 ⟨rfl, ha⟩, by simp [hb], by simp [Access.readsNoValue, hv]⟩
  rw [State.hostAccess_allowed h]
  simp [Access.perform, hv]

/-- What an access does to the state, whatever it is. -/
theorem State.hostAccess_cases (x : Access) (s : State) :
    (∃ fs, fs ≠ [] ∧ s.hostAccess x = { s with faults := fs.foldl addFault s.faults }) ∨
    (∃ o, s.hostAccess x = s.observe o) ∨
    (s.hostAccess x = s) ∨
    (∃ w, s.status.busy = false ∧ x = .writeReg Reg.ctrl.offset 32 w ∧ s.hostAccess x = s.command w) ∨
    (∃ w, s.status.busy = false ∧ x = .writeReg Reg.inLen.offset 32 w ∧ s.hostAccess x = { s with inLen := w }) ∨
    (∃ a v, s.status.busy = false ∧ x = .writeIn a 8 v ∧ a < Config.inCap ∧
      s.hostAccess x = { s with inBuf := s.inBuf.write a v }) := by
  by_cases h : x.reasons s = []
  · have hb : x.allowedWhileBusy = false → s.status.busy = false := by
      intro hx
      have := ((Access.reasons_eq_nil x s).1 h).2.1
      cases hs : s.status.busy
      · rfl
      · rw [this hs] at hx; cases hx
    have ha := ((Access.reasons_eq_nil x s).1 h).1
    rw [State.hostAccess_allowed h]
    cases x with
    | readReg o w =>
      simp only [Access.perform]
      split
      · split
        · exact .inr (.inl ⟨_, rfl⟩)
        · exact .inr (.inr (.inl rfl))
      · exact .inr (.inr (.inl rfl))
    | readIn a w =>
      simp only [Access.perform]
      split
      · exact .inr (.inl ⟨_, rfl⟩)
      · exact .inr (.inr (.inl rfl))
    | readOut a w =>
      simp only [Access.perform]
      split
      · exact .inr (.inl ⟨_, rfl⟩)
      · exact .inr (.inr (.inl rfl))
    | writeOut a w v => exact .inr (.inr (.inl rfl))
    | writeIn a w v =>
      obtain ⟨rfl, hlt⟩ := Access.inCell_exists.1 ha
      exact .inr (.inr (.inr (.inr (.inr ⟨a, v, hb rfl, rfl, hlt, rfl⟩))))
    | writeReg o w v =>
      simp only [Access.perform]
      split
      · rename_i r hr
        obtain ⟨rfl, rfl⟩ := Reg.at_eq_some hr
        cases r with
        | ctrl => exact .inr (.inr (.inr (.inl ⟨v, hb rfl, rfl, rfl⟩)))
        | inLen => exact .inr (.inr (.inr (.inr (.inl ⟨v, hb rfl, rfl, rfl⟩))))
        | _ => exact .inr (.inr (.inl rfl))
      · exact .inr (.inr (.inl rfl))
  · exact .inl ⟨_, h, State.hostAccess_faults h⟩

end Sys2Proof.Machine
end

