-- ==== Sys2Proof/Laws/PerInstr.lean ====
section
/-! SUPPORT. Statements made one instruction at a time. Family ReservedClear: the encoder leaves the reserved bits of a command word
0, and IMM8 0 where the operation takes no operand (30_encoding.md R57). -/

namespace Sys2Proof.Laws.ReservedClear

/-- The bits R57 says must be 0 are 0. -/
def Statement (i : Instr) : Prop :=
  rsvField (encode i) = 0 ∧ ((∀ b, i ≠ .crcByte b) → imm8Field (encode i) = 0)

theorem crcInit : Statement .crcInit := ⟨by simp [encode], fun _ => by simp [encode]⟩

theorem crcByte (b : Byte) : Statement (.crcByte b) := ⟨by simp [encode], fun h => absurd rfl (h b)⟩

theorem crcBuf : Statement .crcBuf := ⟨by simp [encode], fun _ => by simp [encode]⟩

theorem frmEnc : Statement .frmEnc := ⟨by simp [encode], fun _ => by simp [encode]⟩

theorem frmDec : Statement .frmDec := ⟨by simp [encode], fun _ => by simp [encode]⟩

theorem rspDec : Statement .rspDec := ⟨by simp [encode], fun _ => by simp [encode]⟩

end Sys2Proof.Laws.ReservedClear
end

