-- ==== Sys2Proof/Laws/Step.lean ====
section
/-! SUPPORT. What a turn and a step can do. -/

namespace Sys2Proof.Machine

/-- A turn of the host is nothing, RESET, or one access with some program left. -/
theorem State.hostTurn_cases (s : State) :
    s.hostTurn = s ∨ (∃ p, s.hostTurn = { s with program := p }.resetEvent) ∨
      (∃ p x, s.hostTurn = { s with program := p }.hostAccess x) := by
  unfold State.hostTurn
  split
  · exact .inl rfl
  · exact .inr (.inr ⟨_, _, rfl⟩)
  · exact .inr (.inl ⟨_, rfl⟩)
  · exact .inr (.inr ⟨_, _, rfl⟩)
  · exact .inr (.inr ⟨_, _, rfl⟩)
  · split <;> exact .inr (.inr ⟨_, _, rfl⟩)

/-- The codec's completion answers a next state. -/
theorem State.codecComplete_next (s : State) : ∃ t, s.codecComplete = .next t := by
  unfold State.codecComplete
  split
  · obtain ⟨t, h, _⟩ := exec_cases _ s
    exact ⟨t, h⟩
  · exact ⟨_, rfl⟩

/-- A step of a clean state is a turn (R97). -/
theorem step_clean {s : State} (h : s.clean) : step s = s.turn := by
  rw [step, h]

theorem State.turn_codec {s : State} (h : s.mover = .codec) : s.turn = s.takeTurn.codecTurn := by
  rw [State.turn, h]

theorem State.turn_host {s : State} (h : s.mover = .host) : s.turn = .next s.takeTurn.hostTurn := by
  rw [State.turn, h]

/-- What a step that answers a next state did: the host moved, the codec's turn passed, or the codec completed. -/
theorem step_cases {s t : State} (h : step s = .next t) :
    s.clean ∧
      ((s.mover = .host ∧ t = s.takeTurn.hostTurn) ∨
       (s.mover = .codec ∧ s.status.busy = false ∧ t = s.takeTurn) ∨
       (s.mover = .codec ∧ s.status.busy = true ∧ s.takeTurn.codecComplete = .next t)) := by
  have hc : s.clean := by
    cases hf : s.faults with
    | nil => exact hf
    | cons r rs => rw [step, hf] at h; cases h
  refine ⟨hc, ?_⟩
  rw [step_clean hc] at h
  cases hm : s.mover with
  | host =>
    rw [State.turn_host hm] at h
    cases h
    exact .inl ⟨rfl, rfl⟩
  | codec =>
    rw [State.turn_codec hm, State.codecTurn] at h
    cases hb : s.status.busy with
    | true => rw [State.takeTurn_status, hb] at h; exact .inr (.inr ⟨rfl, rfl, by simpa using h⟩)
    | false =>
      rw [State.takeTurn_status, hb] at h
      refine .inr (.inl ⟨rfl, rfl, ?_⟩)
      have : Host.Outcome.next s.takeTurn = (Host.Outcome.next t : Host.Outcome State Fault Refusal) := by simpa using h
      cases this
      rfl

/-- A clean state has a next state (R97: only a recorded model fault stops the model). -/
theorem step_next_of_clean {s : State} (h : s.clean) : ∃ t, step s = .next t := by
  rw [step_clean h]
  cases hm : s.mover with
  | host => exact ⟨_, State.turn_host hm⟩
  | codec =>
    rw [State.turn_codec hm, State.codecTurn]
    split
    · exact State.codecComplete_next _
    · exact ⟨_, rfl⟩

/-! ### Runs -/

/-- A run that takes a step goes on from the state the step answers. -/
theorem core_run_next {s t : State} (h : step s = .next t) (k : Nat) :
    Sys2Proof.core.run (k + 1) s = Sys2Proof.core.run k t := by
  simp only [Host.Core.run]
  rw [show Sys2Proof.core.step s = (Host.Outcome.next t : Host.Outcome State Fault Refusal) from h]

/-- A run ends at a fault. -/
theorem core_run_fault {s : State} {r : Fault} (h : step s = .fault r) (k : Nat) :
    Sys2Proof.core.run (k + 1) s = .fault r := by
  simp only [Host.Core.run]
  rw [show Sys2Proof.core.step s = (Host.Outcome.fault r : Host.Outcome State Fault Refusal) from h]

/-- No step refuses. -/
theorem step_not_refused (s : State) (r : Refusal) : step s ≠ .refused r := by
  intro h
  by_cases hc : s.clean
  · obtain ⟨t, ht⟩ := step_next_of_clean hc
    rw [ht] at h
    cases h
  · cases hf : s.faults with
    | nil => exact hc hf
    | cons q qs => rw [step, hf] at h; cases h

end Sys2Proof.Machine
end

