-- ==== Sys2Proof/Tests/Slice0.lean ====
section
/-! SUPPORT. Tests against the spec's own vectors (95_test_vectors.md), and a witness for the hypotheses of each statement. -/

namespace Sys2Proof.Tests

open Sys2Proof Sys2Proof.Machine Sys2Proof.Claims

/-! ### Helpers -/

/-- A host-side state: `bs` in IN_BUF, IN_LEN = n. -/
def prepared (bs : List Byte) (n : Word) : State := { State.reset with inBuf := cellsFrom 0 bs, inLen := n }

/-- The same after the command `w`: the codec is about to complete it. -/
def commanded (w : Word) (bs : List Byte) (n : Word) : State := (prepared bs n).placeCommand w

/-- The command `w` over the operand `bs`. -/
def loaded (w : Word) (bs : List Byte) : State := commanded w bs (BitVec.ofNat 32 bs.length)

/-- The state after one step, if there is one. -/
def stepped (s : State) : Option State :=
  match step s with
  | .next t => some t
  | .fault _ => none
  | .refused _ => none

/-- A field of the state after one step. -/
def leaves {α : Type} (s : State) (f : State → α) : Option α := (stepped s).map f

/-- A state whose host runs `p`. -/
def hosting (p : List HostStmt) (s : State) : State := { s with program := p, turns := [.host] }

/-- A state in which FRM.ENC of `A0` has succeeded, but for the header bytes: OUT_LEN = 8 (95_test_vectors.md section 2.4). -/
def encoded : State :=
  { State.reset with
    status := { Status.reset with done := true, oValid := true }
    outLen := some 8, outBuf := cellsFrom 0 [0, 0, 0, 0x00, 0x01, 0xA0, 0x00, 0xA0] }

/-- The scenario-1 weight response with header bytes `00 00 00` (95_test_vectors.md section 2.6). -/
def response : List Byte :=
  [0, 0, 0, 0x00, 0x07, 0xA0, 0xD2, 0x04, 0x00, 0x00, 0x01, 0x01, 0xB2, 0xCE]

/-- The frame of section 2.5 that starts `AA BB CC`. -/
def foreignFrame : List Byte := [0xAA, 0xBB, 0xCC, 0x00, 0x03, 0x12, 0x34, 0x56, 0x06, 0x25]

/-- The -1234 response of section 2.6 with its length field and its checksum `B1 DD` in the other byte order. -/
def swappedResponse : List Byte :=
  [0, 0, 0, 0x07, 0x00, 0xA0, 0x2E, 0xFB, 0xFF, 0xFF, 0x00, 0x01, 0xDD, 0xB1]

/-- A decoded weight response: the registers behind R_VALID hold values. -/
def decoded : State :=
  { State.reset with
    status := { Status.reset with done := true, fValid := true, rValid := true }
    fHdr := some 0, fLen := some 7, fCrc := some 0xB2CE
    rEcho := some 0xA0, rWeight := some 0xFFFFFFFF, rDiv := some 0x80, rStable := some 0x80 }

theorem prepared_operand (bs : List Byte) (k : Nat) (h : k < bs.length) :
    Memory.read (cellsFrom 0 bs) k = some bs[k] := by
  rw [read_cellsFrom, if_pos (Nat.zero_le k), Nat.sub_zero, List.getElem?_eq_getElem h]

theorem loaded_operandIs (w : Word) (bs : List Byte) (h : bs.length < 2 ^ 32) : (loaded w bs).operandIs bs := by
  refine ⟨?_, fun k hk => prepared_operand bs k hk⟩
  change (BitVec.ofNat 32 bs.length).toNat = bs.length
  rw [BitVec.toNat_ofNat, Nat.mod_eq_of_lt h]

theorem loaded_codecAbout (w : Word) (bs : List Byte) : (loaded w bs).codecAbout := ⟨rfl, rfl, rfl⟩

theorem le_inCap {n : Nat} (h : n ≤ 65542) : n ≤ Config.inCap := Nat.le_trans h Config.minCap_le_inCap

/-! ### What the assembler refuses (30_encoding.md R70) -/

theorem test_illformed_crcInit_operand : (OpStatement.mk .crcInit [0]).wellFormed = false := by decide
theorem test_illformed_crcByte_none : (OpStatement.mk .crcByte []).wellFormed = false := by decide
theorem test_illformed_crcByte_two : (OpStatement.mk .crcByte [1, 2]).wellFormed = false := by decide
theorem test_illformed_crcByte_256 : assemble ⟨.crcByte, [256]⟩ = none := by decide
theorem test_illformed_crcBuf_operand : (OpStatement.mk .crcBuf [3]).wellFormed = false := by decide
theorem test_illformed_frmEnc_operand : (OpStatement.mk .frmEnc [0]).wellFormed = false := by decide
theorem test_illformed_frmDec_operand : (OpStatement.mk .frmDec [0, 0]).wellFormed = false := by decide
theorem test_illformed_rspDec_operand : assemble ⟨.rspDec, [14]⟩ = none := by decide
theorem test_wellformed_crcByte_255 : assemble ⟨.crcByte, [255]⟩ = some (.crcByte 0xFF) := by decide

/-! ### Decoding: words written out from 30_encoding.md R57 and R58, RSV then IMM8 then OP -/

theorem test_decode_crcInit : decode 0b0000000000000000_00000000_00000001 = .ok .crcInit := by decide
theorem test_decode_crcByte : decode 0b0000000000000000_00010010_00000010 = .ok (.crcByte 0x12) := by decide
theorem test_decode_crcBuf : decode 0b0000000000000000_00000000_00000011 = .ok .crcBuf := by decide
theorem test_decode_frmEnc : decode 0b0000000000000000_00000000_00010000 = .ok .frmEnc := by decide
theorem test_decode_frmDec : decode 0b0000000000000000_00000000_00010001 = .ok .frmDec := by decide
theorem test_decode_rspDec : decode 0b0000000000000000_00000000_00100000 = .ok .rspDec := by decide

/-- The unlisted codes of 95_test_vectors.md section 2.7. -/
theorem test_decode_unlisted :
    decode 0x00 = .error .unlistedOp ∧ decode 0x04 = .error .unlistedOp ∧ decode 0x0F = .error .unlistedOp ∧
      decode 0x12 = .error .unlistedOp ∧ decode 0x21 = .error .unlistedOp ∧ decode 0xFF = .error .unlistedOp :=
  ⟨rfl, rfl, rfl, rfl, rfl, rfl⟩

/-- A nonzero IMM8 outside CRC.BYTE, and a nonzero RSV (section 2.7). -/
theorem test_decode_stray :
    decode 0x00000101 = .error .strayOperand ∧ decode 0x00000110 = .error .strayOperand ∧
      decode 0x00000120 = .error .strayOperand ∧ decode 0x00010001 = .error .reservedBitsSet ∧
      decode 0x00010002 = .error .reservedBitsSet ∧ decode 0x80000010 = .error .reservedBitsSet :=
  ⟨rfl, rfl, rfl, rfl, rfl, rfl⟩

theorem test_decodeTableWord : decodeTableWord 32 0x5602 = some (.crcByte 0x56) ∧ decodeTableWord 32 0x104 = none := by decide

/-- Each row's word runs as the first operation after reset. -/
theorem test_first_step_runs :
    ∀ w ∈ [0x01, 0x02, 0x03, 0x10, 0x11, 0x20], (stepped (State.reset.withFetchWord 32 w)).isSome = true := by decide

/-! ### The Checksum Engine (95_test_vectors.md sections 2.1 and 2.2) -/

theorem test_reduction_term : reductionTerm 0x12 = 0x3273 ∧ reductionTerm 0x80 = 0x9188 ∧ reductionTerm 0xFF = 0x1EF0 := by decide
theorem test_step_corner : crcStep 0xFFFF 0xFF = 0xE10F ∧ crcStep 0x0100 0x00 = 0x1021 := by decide
theorem test_checksum_digits : checksum [0x31, 0x32, 0x33, 0x34, 0x35, 0x36, 0x37, 0x38, 0x39] = 0xBEEF := by decide +kernel
theorem test_checksum_two_zeros :
    checksum [0x31, 0x32, 0x33, 0x34, 0x35, 0x36, 0x37, 0x38, 0x39, 0, 0] = 0x31C3 := by decide +kernel

/-! ### The operations (95_test_vectors.md sections 2.3 to 2.6) -/

theorem test_crcInit :
    leaves { loaded 0x01 [] with crcAcc := 0x1234 } (fun t => (t.crcAcc, t.status.word)) = some (0x0000, 0x00000002) := by decide
theorem test_crcByte :
    leaves { loaded 0x5602 [] with crcAcc := 0x1234 } (fun t => (t.crcAcc, t.status.word)) = some (0x0625, 0x00000002) := by decide
theorem test_crcBuf :
    leaves { loaded 0x03 [0x12, 0x34, 0x56] with crcAcc := 0x1234 } (fun t => (t.crcAcc, t.status.word)) =
      some (0x0625, 0x00000002) := by decide +kernel
theorem test_crcBuf_noValue :
    leaves (commanded 0x03 [0x12] 2) (fun t => (t.faults, t.status.busy)) = some ([.noValueRead], true) := by decide
theorem test_frmEnc :
    leaves (loaded 0x10 [0x12, 0x34, 0x56]) (fun t => (t.crcAcc, t.outLen, t.status.word)) =
      some (0x0625, some 10, 0x00001002) := by decide +kernel
theorem test_frmEnc_bytes :
    leaves (loaded 0x10 [0xA0]) (fun t => (List.range 10).map (fun a => (t.outByte a).isSome)) =
        some [true, true, true, true, true, true, true, true, false, false] ∧
      leaves (loaded 0x10 [0xA0]) (fun t => [3, 4, 5, 6, 7].map (fun a => t.outByte a)) =
        some [some 0x00, some 0x01, some 0xA0, some 0x00, some 0xA0] := by decide
theorem test_frmDec :
    leaves (loaded 0x11 foreignFrame) (fun t => (t.fHdr, t.fLen, t.fCrc)) = some (some 0xAABBCC, some 3, some 0x0625) ∧
      leaves (loaded 0x11 foreignFrame) (fun t => (t.outLen, t.outByte 2, t.outByte 3)) = some (some 3, some 0x56, none) ∧
      leaves (loaded 0x11 foreignFrame) (fun t => (t.status.lenOk, t.status.crcOk)) = some (true, true) := by decide +kernel
theorem test_frmDec_littleEndianLength :
    leaves (loaded 0x11 [0, 0, 0, 0x07, 0x00, 0xA0, 0xD2, 0x04, 0x00, 0x00, 0x01, 0x01, 0xB2, 0xCE])
      (fun t => t.status.word) = some 0x00000016 := by decide
theorem test_rspDec :
    leaves (loaded 0x20 swappedResponse) (fun t => (t.rEcho, t.fLen, t.fCrc)) =
        some (some 0xA0, some 0x0700, some 0xDDB1) ∧
      leaves (loaded 0x20 swappedResponse) (fun t => t.reading) = some (some ⟨-1234, 0, 0x01⟩) ∧
      leaves (loaded 0x20 swappedResponse) (fun t => (t.status.lenOk, t.status.crcOk, t.status.rValid)) =
        some (false, false, true) := by decide +kernel
theorem test_rspDec_short :
    leaves (commanded 0x20 response 13) (fun t => (t.status.word, t.rWeight)) = some (0x00000016, none) := by decide

/-! ### Errors and their order (95_test_vectors.md sections 2.7 and 2.8) -/

theorem test_illegalOp_keeps_results :
    leaves (encoded.placeCommand 0x104) (fun t => (t.status.word, t.outByte 5)) = some (0x00001026, some 0xA0) := by decide
theorem test_frmEnc_65536 : leaves (commanded 0x10 [] 65536) (fun t => t.status.word) = some 0x00000036 := by decide
theorem test_frmDec_unwritten_short : leaves (commanded 0x11 [] 5) (fun t => (t.status.word, t.faults)) = some (0x00000016, []) := by
  decide

/-! ### Model faults (95_test_vectors.md section 2.9) -/

/-- Each access breaks the rule the section names; the buffer accesses that are no byte break D4 (92_eei_decisions.md). -/
theorem test_model_faults :
    ([Access.readReg 0x10 32, .readIn 0 8].map (fun x => (State.reset.hostAccess x).faults) =
      [[.noValueRead], [.noValueRead]]) ∧
    ([Access.readReg 0x34 32, .readReg 0x04 16, .readIn 0 32, .writeIn 0 16 0xFF, .readOut 0 32, .writeOut 0 32 0].map
        (fun x => (State.reset.hostAccess x).faults) =
      [[.badAddress], [.badAddress], [.badAddress], [.badAddress], [.badAddress], [.badAddress]]) ∧
    (encoded.hostAccess (.readOut 8 8)).faults = [.noValueRead] ∧ (encoded.hostAccess (.readReg 0x28 32)).faults = [.noValueRead] ∧
    ([Access.writeReg 0x00 32 1, .writeReg 0x08 32 3, .writeIn 0 8 0, .readReg 0x0C 32].map
        (fun x => ((loaded 0x01 [0x00]).hostAccess x).faults) =
      [[.hostHazard], [.hostHazard], [.hostHazard], [.hostHazard]]) ∧
    ∀ x ∈ [Access.readReg 0x04 32, .readReg 0x00 32, .readReg 0x08 32, .readReg 0x14 32, .readIn 0 8],
      ((loaded 0x01 [0x00]).hostAccess x).faults = [] := by decide

theorem test_readIn_beyond : Fault.badAddress ∈ (State.reset.hostAccess (.readIn Config.inCap 8)).faults := by
  have h : Fault.badAddress ∈ (Access.readIn Config.inCap 8).reasons State.reset := by
    rw [Access.badAddress_mem]
    simp [Access.addressExists, outsideIn_iff]
  rw [State.hostAccess_faults (fun e => by rw [e] at h; cases h)]
  exact mem_foldl_addFault.2 (.inr h)

theorem test_write_status_ignored : State.reset.hostAccess (.writeReg 0x04 32 0xFFFFFFFF) = State.reset := rfl

/-- Program P6: a second command before the completion stops the model. -/
theorem test_program_P6 :
    leaves (hosting [.wr .ctrl 0x01] (loaded 0x01 [])) (fun t => (t.faults, t.status.busy)) = some ([.hostHazard], true) := by
  decide

/-- The pseudo-instructions of 30_encoding.md R69. -/
theorem test_pseudo_instructions :
    loadInStmts [0xA0, 0xD2] = [.wrb 0 0xA0, .wrb 1 0xD2, .wr .inLen 2] ∧ callStmts .frmEnc = [.wr .ctrl 0x10, .wait] := by decide

theorem test_fault_is_answered :
    step { State.reset with faults := [.hostHazard] } = .fault .hostHazard := rfl

theorem test_wait_stays_while_busy :
    leaves (hosting [.wait] (loaded 0x01 [])) (fun t => (t.program, t.trace)) =
      some ([.wait], [.reg .status 0x00000001]) := by decide

theorem test_reset_event :
    leaves (hosting [.reset] { decoded with crcAcc := 7, faults := [] }) (fun t => (t.crcAcc, t.rWeight, t.status.word)) =
      some (0, none, 0) := by decide

/-! ### Witnesses: states that meet the hypotheses of the statements -/

/-- `IN_CAP < N` can be met in every build but the one with IN_CAP = 2^32 - 1, where no IN_LEN is above IN_CAP
(95_test_vectors.md section 2.3). -/
theorem witness_above_inCap (w : Word) (h : Config.inCap < 2 ^ 32 - 1) : Config.inCap < opLen (commanded w [] 0xFFFFFFFF) := h

/-- A missing byte within the capacity. -/
theorem witness_missing (w : Word) (n : Word) (h : 0 < n.toNat) (h' : n.toNat ≤ 65542) :
    operandMissing (commanded w [] n) ∧ opLen (commanded w [] n) ≤ Config.inCap :=
  ⟨⟨0, h, rfl⟩, le_inCap h'⟩

theorem witness_OperationMapAtCompletion :
    (∀ w ∈ [(0x01 : Word), 0x03, 0x10, 0x11, 0x20], (loaded w []).codecAbout ∧ (loaded w []).pend = w) ∧
    ((loaded 0xFF02 []).codecAbout ∧ op (loaded 0xFF02 []).pend = 0x02 ∧ imm8 (loaded 0xFF02 []).pend = 0xFF ∧
      rsv (loaded 0xFF02 []).pend = 0) ∧
    (loaded 0x00 []).codecAbout ∧ illegalWord (loaded 0x00 []).pend :=
  ⟨fun w _ => ⟨loaded_codecAbout w [], rfl⟩, ⟨loaded_codecAbout _ _, rfl, rfl, rfl⟩, loaded_codecAbout _ _,
    .inr (.inl (by decide))⟩

theorem witness_EncodeAndDecodeAgree :
    (Instr.crcByte 0xFF).wellFormed = true ∧ decode 0x0000FF02 = .ok (.crcByte 0xFF) ∧
      encode (.crcByte 0xFF) = encode (.crcByte 0xFF) := by decide

theorem witness_StepRunsTheDecodedOperation :
    ((loaded 0x10 []).codecAbout ∧ decode (loaded 0x10 []).pend = .ok .frmEnc) ∧
    (State.clean { State.reset with turns := [.codec] } ∧ State.mover { State.reset with turns := [.codec] } = .codec ∧
      State.reset.status.busy = false) ∧
    (hosting [.access (.readIn 0 8)] State.reset).hostAbout (.access (.readIn 0 8)) [] ∧
    (State.reset.clean ∧ State.reset.mover = .host ∧ State.reset.program = []) ∧
    (loaded 0x10 []).turns = .codec :: [] ∧ State.reset.turns = [] :=
  ⟨⟨loaded_codecAbout _ _, rfl⟩, ⟨rfl, rfl, rfl⟩, ⟨rfl, rfl, rfl⟩, ⟨rfl, rfl, rfl⟩, rfl, rfl⟩

/-- The three ways a word is illegal (R59), each at a word of its own. -/
theorem witness_IllegalWordCompletes :
    (loaded 0x00000110 []).codecAbout ∧ illegalWord (loaded 0x00000110 []).pend ∧ illegalWord 0x00010002 ∧
      illegalWord 0x000000FF :=
  ⟨loaded_codecAbout _ _, .inr (.inr (by decide)), .inl (by decide), .inr (.inl (by decide))⟩

theorem witness_ChecksumShortZeroAndLinear :
    ([0x12, 0x34] : List Byte).length = ([0xFF, 0xFF] : List Byte).length := rfl

theorem witness_CrcInitResult : op 0x00000101 = 0x01 ∧ (imm8 0x00000101 ≠ 0 ∨ rsv 0x00000101 ≠ 0) := by decide

theorem witness_CrcBufResult :
    (opLen (commanded 0x03 [] 1) ≤ Config.inCap ∧ operandMissing (commanded 0x03 [] 1)) ∧
    ((loaded 0x03 []).operandIs [] ∧ ([] : List Byte).length ≤ Config.inCap) ∧
    ((loaded 0x03 (List.replicate Config.inCap 0)).operandIs (List.replicate Config.inCap 0) ∧
      (List.replicate Config.inCap (0 : Byte)).length ≤ Config.inCap) :=
  ⟨⟨le_inCap (by decide), 0, by decide, rfl⟩, ⟨loaded_operandIs _ _ (by decide), Nat.zero_le _⟩,
    loaded_operandIs _ _ (by rw [List.length_replicate]; exact Config.inCap_lt), Nat.le_of_eq List.length_replicate⟩

/-- A missing byte at the boundary N = IN_CAP. -/
theorem witness_CrcBufResult_inCap :
    opLen (commanded 0x03 [] (BitVec.ofNat 32 Config.inCap)) = Config.inCap ∧
      operandMissing (commanded 0x03 [] (BitVec.ofNat 32 Config.inCap)) := by
  have h : opLen (commanded 0x03 [] (BitVec.ofNat 32 Config.inCap)) = Config.inCap := by
    change (BitVec.ofNat 32 Config.inCap).toNat = Config.inCap
    rw [BitVec.toNat_ofNat, Nat.mod_eq_of_lt Config.inCap_lt]
  exact ⟨h, 0, by rw [h]; exact le_inCap (by decide), rfl⟩

theorem witness_FrmEncResult :
    65535 < opLen (commanded 0x10 [] 65536) ∧
    (opLen (commanded 0x10 [] 65535) ≤ 65535 ∧ operandMissing (commanded 0x10 [] 65535)) ∧
    ((loaded 0x10 []).operandIs [] ∧ ([] : List Byte).length ≤ 65535) ∧
    (loaded 0x10 (List.replicate 65535 0)).operandIs (List.replicate 65535 0) :=
  ⟨by decide, ⟨by decide, 0, by decide, rfl⟩, ⟨loaded_operandIs _ _ (by decide), by decide⟩,
    loaded_operandIs _ _ (by rw [List.length_replicate]; decide)⟩

theorem witness_FrmEncProperties :
    (loaded 0x10 [0xA0]).operandIs [0xA0] ∧ (loaded 0x01 [0xA0]).operandIs [0xA0] ∧ ([0xA0] : List Byte).length ≤ 65535 :=
  ⟨loaded_operandIs _ _ (by decide), loaded_operandIs _ _ (by decide), by decide⟩

theorem witness_PollFrame : opLen (loaded 0x10 []) = 0 := rfl

/-- Each clause of FRM.DEC's result at the values where the clauses meet: N = 6 and 7, and a length field one off. -/
theorem witness_FrmDecResult :
    opLen (commanded 0x11 [] 6) < 7 ∧
    (7 ≤ opLen (commanded 0x11 [] 7) ∧ opLen (commanded 0x11 [] 7) ≤ Config.inCap ∧ (commanded 0x11 [] 7).inBuf.read 3 = none) ∧
    (7 ≤ opLen (loaded 0x11 [0, 0, 0, 0, 1, 0, 0]) ∧ opLen (loaded 0x11 [0, 0, 0, 0, 1, 0, 0]) ≤ Config.inCap ∧
      (loaded 0x11 [0, 0, 0, 0, 1, 0, 0]).inBuf.read 3 = some 0 ∧ (loaded 0x11 [0, 0, 0, 0, 1, 0, 0]).inBuf.read 4 = some 1 ∧
      (be16 0 1).toNat ≠ opLen (loaded 0x11 [0, 0, 0, 0, 1, 0, 0]) - 7) ∧
    (7 ≤ opLen (commanded 0x11 [0, 0, 0, 0, 0] 7) ∧ (commanded 0x11 [0, 0, 0, 0, 0] 7).inBuf.read 3 = some 0 ∧
      (commanded 0x11 [0, 0, 0, 0, 0] 7).inBuf.read 4 = some 0 ∧ (be16 0 0).toNat = opLen (commanded 0x11 [0, 0, 0, 0, 0] 7) - 7 ∧
      operandMissing (commanded 0x11 [0, 0, 0, 0, 0] 7)) ∧
    ((loaded 0x11 [0, 0, 0, 0, 0, 0, 1]).operandIs [0, 0, 0, 0, 0, 0, 1] ∧ (be16 0 0).toNat = ([] : List Byte).length) :=
  ⟨by decide, ⟨by decide, le_inCap (by decide), rfl⟩, ⟨by decide, le_inCap (by decide), rfl, rfl, by decide⟩,
    ⟨by decide, rfl, rfl, by decide, 6, by decide, rfl⟩, loaded_operandIs _ _ (by decide), by decide⟩

theorem witness_RspDecResult :
    (opLen (commanded 0x20 [] 13) ≤ Config.inCap ∧ opLen (commanded 0x20 [] 13) ≠ 14) ∧
    (opLen (commanded 0x20 [] 15) ≤ Config.inCap ∧ opLen (commanded 0x20 [] 15) ≠ 14) ∧
    (opLen (commanded 0x20 [] 14) = 14 ∧ operandMissing (commanded 0x20 [] 14)) ∧
    (loaded 0x20 response).operandIs response :=
  ⟨⟨le_inCap (by decide), by decide⟩, ⟨le_inCap (by decide), by decide⟩, ⟨rfl, 0, by decide, rfl⟩,
    loaded_operandIs _ _ (by decide)⟩

/-- The bytes FRM.ENC makes of `A0`, and a state that decodes them with a good header and checksum. -/
theorem witness_DecodeInvertsEncode :
    (loaded 0x10 [0xA0]).operandIs [0xA0] ∧
    opLen (loaded 0x11 (encodeFrame [0xA0])) = ([0xA0] : List Byte).length + 7 ∧
    ∃ t, exec .frmEnc (loaded 0x10 [0xA0]) = .next t ∧
      (∀ k < 8, (loaded 0x11 (encodeFrame [0xA0])).inBuf.read k = t.outByte k) ∧
      ∃ v, (loaded 0x11 (encodeFrame [0xA0])).clean ∧ (loaded 0x11 (encodeFrame [0xA0])).operandIs (encodeFrame [0xA0]) ∧
        exec .frmDec (loaded 0x11 (encodeFrame [0xA0])) = .next v ∧ v.clean ∧ v.status.err = false ∧
        v.status.hdrOk = true ∧ v.status.crcOk = true ∧ v.regValue .outLen = some 1 ∧ v.outByte 0 = some 0xA0 := by
  refine ⟨loaded_operandIs _ _ (by decide), rfl, _, rfl, ?_, _, rfl, loaded_operandIs _ _ (by decide), rfl, rfl, rfl, ?_, rfl,
    rfl, rfl⟩
  · intro k hk
    interval_cases k <;> rfl
  · exact beq_iff_eq.2 u24_headerBytes

theorem witness_RspDecIsDeterministicAndWhole :
    (response.length = 14 ∧ (loaded 0x20 response).operandIs response ∧ (loaded 0x01 response).operandIs response) ∧
    opLen (commanded 0x20 [] 0) ≠ 14 ∧ opLen (commanded 0x20 [] 0) ≤ Config.inCap :=
  ⟨⟨rfl, loaded_operandIs _ _ (by decide), loaded_operandIs _ _ (by decide)⟩, by decide, Nat.zero_le _⟩

/-- A state with R_VALID = 1 in which the invariant holds. -/
theorem decoded_inv : decoded.Inv := by
  refine ⟨List.Pairwise.nil, List.Pairwise.nil, fun c hc => absurd hc List.not_mem_nil, fun c hc => absurd hc List.not_mem_nil,
    ⟨by decide, by decide, by decide, by decide⟩, ⟨by decide, by decide, by decide, by decide, ?_, ?_, ?_⟩, by decide, by decide,
    by decide⟩ <;> intro h <;> cases h

theorem encoded_inv : encoded.Inv := by
  refine ⟨List.Pairwise.nil, by decide, fun c hc => absurd hc List.not_mem_nil, ?_,
    ⟨by decide, by decide, by decide, by decide⟩, ⟨?_, by decide, by decide, by decide, ?_, ?_, ?_⟩, by decide, by decide, by decide⟩
  · intro c hc
    have := (mem_cellsFrom hc).2
    have h := Config.minCap_le_outCap
    simp only [List.length_cons, List.length_nil] at this
    omega
  · exact fun _ => ⟨8, rfl, Nat.le_trans (by decide) Config.minCap_le_outCap, by decide⟩
  all_goals intro h; cases h

theorem witness_ReadingIsTheReadOut :
    State.reset.status.rValid = false ∧ decoded.Inv ∧ decoded.status.rValid = true ∧
      decoded.rWeight = some 0xFFFFFFFF ∧ decoded.rDiv = some 0x80 ∧ decoded.rStable.isSome = true :=
  ⟨rfl, decoded_inv, rfl, by decide, by decide, by decide⟩

theorem witness_ChecksNeverReject :
    opLen (loaded 0x11 [1, 2, 3, 0, 0, 4, 5]) = opLen (loaded 0x11 [9, 9, 9, 0, 0, 9, 9]) ∧
    ¬ operandMissing (loaded 0x11 [1, 2, 3, 0, 0, 4, 5]) ∧ ¬ operandMissing (loaded 0x11 [9, 9, 9, 0, 0, 9, 9]) ∧
    (∀ k ∈ [3, 4], (loaded 0x11 [1, 2, 3, 0, 0, 4, 5]).inBuf.read k = (loaded 0x11 [9, 9, 9, 0, 0, 9, 9]).inBuf.read k) := by
  have full (bs : List Byte) (h : bs.length = 7) : ¬ operandMissing (loaded 0x11 bs) := by
    rintro ⟨k, hk, hn⟩
    have hb := loaded_operandIs 0x11 bs (by rw [h]; decide)
    rw [hb.2 k (by rw [← hb.1]; exact hk)] at hn
    cases hn
  exact ⟨rfl, full _ rfl, full _ rfl, by decide⟩

theorem witness_ValidBitsTable :
    (∀ i ∈ [Instr.crcInit, .crcByte 0xFF, .crcBuf, .frmEnc, .frmDec, .rspDec],
      ∃ t, (loaded (encode i) []).clean ∧ exec i (loaded (encode i) []) = .next t ∧ t.clean) ∧
    (illegalWord (loaded 0x04 []).pend ∧ ∃ t, (loaded 0x04 []).codecComplete = .next t) ∧
    State.reset.status.oValid = false := by
  refine ⟨?_, ⟨.inr (.inl (by decide)), _, rfl⟩, rfl⟩
  intro i hi
  fin_cases hi <;> exact ⟨_, rfl, rfl, rfl⟩

theorem witness_DoneIsSetByEveryCompletion :
    (∃ t, (loaded 0x01 []).codecAbout ∧ step (loaded 0x01 []) = .next t ∧ t.clean) ∧
    ((hosting [.wr .ctrl 0x01] State.reset).hostAbout (.wr .ctrl 0x01) [] ∧ (hosting [.wr .ctrl 0x01] State.reset).status.busy = false) ∧
    (∃ t, step State.reset = .next t ∧ ∀ w rest, ¬ State.reset.hostAbout (.wr .ctrl w) rest) :=
  ⟨⟨_, loaded_codecAbout _ _, rfl, rfl⟩, ⟨⟨rfl, rfl, rfl⟩, rfl⟩, _, rfl, fun _ _ h => (by cases h.2.2)⟩

/-- An error of each code, in an operation that clears the valid bits and in a word that does not. -/
theorem witness_ErrorsArePrecise :
    (∃ t, (loaded 0x20 []).codecAbout ∧ step (loaded 0x20 []) = .next t ∧ t.clean ∧ t.status.err = true ∧
      (loaded 0x20 []).pend = encode .rspDec) ∧
    (∃ t, (loaded 0x04 []).codecAbout ∧ step (loaded 0x04 []) = .next t ∧ t.clean ∧ t.status.err = true ∧
      (loaded 0x04 []).pend ≠ encode .frmEnc ∧ (loaded 0x04 []).pend ≠ encode .frmDec ∧ (loaded 0x04 []).pend ≠ encode .rspDec) :=
  ⟨⟨_, loaded_codecAbout _ _, rfl, rfl, rfl, rfl⟩,
    ⟨_, loaded_codecAbout _ _, rfl, rfl, rfl, by decide, by decide, by decide⟩⟩

theorem witness_CheckOrder :
    illegalWord (loaded 0x00000110 []).pend ∧ (loaded 0x01 []).status.busy = true ∧ 65535 < opLen (commanded 0x10 [] 65536) ∧
    opLen (commanded 0x11 [] 5) < 7 ∧
    (7 ≤ opLen (loaded 0x11 [0, 0, 0, 7, 0, 0, 0]) ∧ opLen (loaded 0x11 [0, 0, 0, 7, 0, 0, 0]) ≤ Config.inCap ∧
      (loaded 0x11 [0, 0, 0, 7, 0, 0, 0]).inBuf.read 3 = some 7 ∧ (loaded 0x11 [0, 0, 0, 7, 0, 0, 0]).inBuf.read 4 = some 0 ∧
      (be16 7 0).toNat ≠ opLen (loaded 0x11 [0, 0, 0, 7, 0, 0, 0]) - 7) ∧
    (opLen (commanded 0x20 [] 13) ≤ Config.inCap ∧ opLen (commanded 0x20 [] 13) ≠ 14) ∧
    ∃ t, (commanded 0x03 [] 1).clean ∧ exec .crcBuf (commanded 0x03 [] 1) = .next t ∧ ¬ t.clean :=
  ⟨.inr (.inr (by decide)), rfl, by decide, by decide, ⟨by decide, le_inCap (by decide), rfl, rfl, by decide⟩,
    ⟨le_inCap (by decide), by decide⟩, _, rfl, rfl, fun h => (by cases h)⟩

theorem witness_CrcAccHasNoOtherWriter :
    ∃ t, step (loaded 0x03 [0x05]) = .next t ∧ t.crcAcc ≠ (loaded 0x03 [0x05]).crcAcc :=
  ⟨_, rfl, by decide⟩

theorem witness_StatusLayout :
    State.reset.status.busy = false ∧ ∃ t, step (loaded 0x01 []) = .next t ∧ t.status ≠ (loaded 0x01 []).status :=
  ⟨rfl, _, rfl, by decide⟩

theorem witness_CommandStartsTheOperation :
    ((hosting [.wr .ctrl 0xFFFFFFFF] State.reset).hostAbout (.wr .ctrl 0xFFFFFFFF) [] ∧ State.reset.status.busy = false) ∧
    (∃ t, (hosting [.wait] (loaded 0x01 [])).status.busy = true ∧ step (hosting [.wait] (loaded 0x01 [])) = .next t ∧
      ¬ (hosting [.wait] (loaded 0x01 [])).codecAbout ∧ ∀ rest, ¬ (hosting [.wait] (loaded 0x01 [])).hostAbout .reset rest) ∧
    ∃ t, (loaded 0x01 []).codecAbout ∧ step (loaded 0x01 []) = .next t ∧ t.clean :=
  ⟨⟨⟨rfl, rfl, rfl⟩, rfl⟩, ⟨_, rfl, rfl, fun h => (by cases h.2.1), fun _ h => (by cases h.2.2)⟩, _, loaded_codecAbout _ _, rfl, rfl⟩

theorem not_busyAllows_crcAcc : ¬ busyAllows (.readReg 0x0C 32) := by
  rintro (⟨o, ho, h⟩ | ⟨a, -, h⟩)
  · cases h
    revert ho
    decide
  · cases h

theorem witness_BusyWindow :
    (loaded 0x01 []).clean ∧ (loaded 0x01 []).status.busy = true ∧
      (busyAllows (.readReg 0x14 32) ∧ ((loaded 0x01 []).hostAccess (.readReg 0x14 32)).clean) ∧
      busyAllows (.readIn (Config.inCap - 1) 8) ∧ ¬ busyAllows (.readReg 0x0C 32) ∧ ¬ readsBeyondIn (.readReg 0x0C 32) :=
  ⟨rfl, rfl, ⟨.inl ⟨0x14, by decide, rfl⟩, rfl⟩,
    .inr ⟨_, Nat.sub_lt (le_inCap (by decide)) Nat.one_pos, rfl⟩, not_busyAllows_crcAcc, fun ⟨_, _, h⟩ => by cases h⟩

theorem witness_RegisterFile :
    (∀ r, (0x34, r) ∉ registerTable) ∧ (16 ≠ 32) ∧
    ((0x04, Reg.status) ∈ registerTable ∧ Reg.status ≠ .ctrl ∧ Reg.status ≠ .inLen ∧ State.reset.status.busy = false) ∧
    decoded.regValue .rWeight = some 0xFFFFFFFF ∧ decoded.regValue .rDiv = some 0x80 ∧
    encoded.status.oValid = true ∧ decoded.status.fValid = true ∧ decoded.status.rValid = true := by
  refine ⟨fun r => ?_, by decide, ⟨by decide, by decide, by decide, rfl⟩, by decide, by decide, rfl, rfl, rfl⟩
  cases r <;> decide

theorem witness_ReadsBehindValidBits :
    State.reset.regValue .outLen = none ∧ (8 < Config.outCap ∧ encoded.outByte 8 = none) ∧
    (65541 < Config.inCap ∧ State.reset.inBuf.read 65541 = none) ∧ (encoded.Inv ∧ encoded.status.oValid = true) ∧
      decoded.Inv ∧ decoded.status.fValid = true ∧ decoded.status.rValid = true :=
  ⟨rfl, ⟨Nat.lt_of_lt_of_le (by decide) Config.minCap_le_outCap, rfl⟩, ⟨le_inCap (Nat.le_refl _), rfl⟩, ⟨encoded_inv, rfl⟩,
    decoded_inv, rfl, rfl⟩

theorem witness_AccessSideEffects :
    (encoded.clean ∧ isRead (.readOut 7 8) ∧ (encoded.hostAccess (.readOut 7 8)).clean) ∧
    (encoded.hostAccess (.writeIn 0 8 0xFF)).clean ∧ (encoded.hostAccess (.writeOut 0 8 0xFF)).clean ∧
    (encoded.hostAccess (.writeReg 0x08 32 3)).clean ∧ (encoded.hostAccess (.writeReg 0x30 32 3)).clean ∧
    encoded.status.busy = false :=
  ⟨⟨rfl, trivial, rfl⟩, rfl, rfl, rfl, rfl, rfl⟩

theorem witness_InBufferAccess :
    (State.reset.status.busy = false ∧ 65541 < Config.inCap) ∧
    (0 < Config.inCap ∧ (loaded 0x01 [0xFF]).inBuf.read 0 = some 0xFF) ∧ (0 < Config.inCap ∧ State.reset.inBuf.read 0 = none) ∧
    Config.inCap ≤ Config.inCap ∧ (loaded 0x01 []).status.busy = true :=
  ⟨⟨rfl, le_inCap (Nat.le_refl _)⟩, ⟨le_inCap (by decide), rfl⟩, ⟨le_inCap (by decide), rfl⟩, Nat.le_refl _, rfl⟩

theorem witness_OutBufferAccess :
    (encoded.status.busy = false ∧ 7 < Config.outCap ∧ encoded.status.oValid = true ∧ encoded.outLen = some 8 ∧
      7 < (8 : Word).toNat ∧ encoded.outBuf.read 7 = some 0xA0) ∧
    (8 < Config.outCap ∧ ∀ n, encoded.outLen = some n → n.toNat ≤ 8) ∧
    Config.outCap ≤ Config.outCap ∧ (loaded 0x01 []).status.busy = true := by
  have h := Config.minCap_le_outCap
  refine ⟨⟨rfl, by omega, rfl, rfl, by decide, rfl⟩, ⟨by omega, fun n hn => ?_⟩, Nat.le_refl _, rfl⟩
  cases hn
  decide

theorem witness_ResetEvent : (hosting [.reset] (loaded 0x01 [])).hostAbout .reset [] := ⟨rfl, rfl, rfl⟩

theorem witness_ResultsAreStable :
    ∃ t, encoded.status.busy = false ∧ step (hosting [.wr .inLen 3] encoded) = .next t ∧
      (∀ w rest, ¬ (hosting [.wr .inLen 3] encoded).hostAbout (.wr .ctrl w) rest) ∧
      ∀ rest, ¬ (hosting [.wr .inLen 3] encoded).hostAbout .reset rest :=
  ⟨_, rfl, rfl, fun _ _ h => (by cases h.2.2), fun _ h => (by cases h.2.2)⟩

theorem witness_ResultsAreStable_inLen :
    ∃ t, encoded.status.busy = false ∧ step (hosting [.rd .outLen] encoded) = .next t ∧
      (∀ w rest, ¬ (hosting [.rd .outLen] encoded).hostAbout (.wr .inLen w) rest) ∧
      ∀ a n rest, ¬ (hosting [.rd .outLen] encoded).hostAbout (.copyFrom a n) rest :=
  ⟨_, rfl, rfl, fun _ _ h => (by cases h.2.2), fun _ _ _ h => (by cases h.2.2)⟩

theorem witness_PendingOperationIsUndisturbed :
    ∃ t, (hosting [.wait] (loaded 0x01 [])).status.busy = true ∧ (hosting [.wait] (loaded 0x01 [])).mover = .host ∧
      step (hosting [.wait] (loaded 0x01 [])) = .next t ∧ ∀ rest, ¬ (hosting [.wait] (loaded 0x01 [])).hostAbout .reset rest :=
  ⟨_, rfl, rfl, rfl, fun _ h => (by cases h.2.2)⟩

/-- A recorded reason, and each kind of function that keeps it. -/
theorem witness_FaultsStick :
    ∃ t u, Fault.badAddress ∈ State.faults { loaded 0x01 [] with faults := [.badAddress] } ∧
      exec .crcInit { loaded 0x01 [] with faults := [.badAddress] } = .next t ∧
      State.codecComplete { loaded 0x00 [] with faults := [.badAddress] } = .next u :=
  ⟨_, _, by decide, rfl, rfl⟩

theorem witness_StepKeepsTheInvariant : ∃ t, decoded.Inv ∧ step decoded = .next t := ⟨_, decoded_inv, rfl⟩

theorem witness_PendingOperationCompletes :
    State.clean { loaded 0x01 [] with turns := [.host, .host], program := [.wait] } ∧ (loaded 0x01 []).status.busy = true ∧
      HostStmt.reset ∉ State.program { loaded 0x01 [] with turns := [.host, .host], program := [.wait] } :=
  ⟨rfl, rfl, by decide⟩

theorem witness_InternalStateIsUnobservable :
    (State.reset.status.busy = true → (0xFF : Word) = State.reset.pend ∧ (3 : Word) = State.reset.latchedLen) ∧
    ((loaded 0x10 []).status.busy = true ∧ 0x10 = (loaded 0x10 []).pend ∧ 0 = (loaded 0x10 []).latchedLen) :=
  ⟨fun h => (by cases h), rfl, rfl, rfl⟩

theorem witness_WaitPollsStatus :
    (hosting [.wait] (loaded 0x01 [])).hostAbout .wait [] ∧ (hosting [.wait] State.reset).hostAbout .wait [] :=
  ⟨⟨rfl, rfl, rfl⟩, rfl, rfl, rfl⟩

theorem witness_CopyOutCopiesTheResult :
    State.clean { encoded with program := [.copyOut] } ∧ encoded.turns = [] ∧ encoded.status.busy = false ∧
      encoded.status.oValid = true ∧ encoded.outLen = some 8 ∧ (8 : Word).toNat ≤ Config.inCap ∧
      (8 : Word).toNat ≤ Config.outCap ∧ ∀ a < (8 : Word).toNat, (encoded.outBuf.read a).isSome = true :=
  ⟨rfl, rfl, rfl, rfl, rfl, le_inCap (by decide), Nat.le_trans (by decide) Config.minCap_le_outCap, by decide⟩

/-- Operations that meet NOVALUE, each at the edge of its checks, and one that does not. -/
theorem witness_NoValueReadLeavesTheRest :
    meetsNoValue (commanded 0x03 [] 1) .crcBuf ∧ meetsNoValue (commanded 0x10 [] 65535) .frmEnc ∧
      meetsNoValue (commanded 0x11 [] 7) .frmDec ∧ meetsNoValue (commanded 0x20 [] 14) .rspDec ∧
      ¬ meetsNoValue (commanded 0x20 [] 13) .rspDec :=
  ⟨⟨le_inCap (by decide), 0, by decide, rfl⟩, ⟨by decide, 0, by decide, rfl⟩,
    ⟨by decide, le_inCap (by decide), ⟨0, by decide, rfl⟩, fun _ _ h => by cases h⟩, ⟨rfl, 0, by decide, rfl⟩,
    fun h => absurd h.1 (by decide)⟩

theorem witness_ResetLeavesTheHost : (hosting [.reset, .wait] (loaded 0x01 [])).hostAbout .reset [.wait] := ⟨rfl, rfl, rfl⟩

/-- Each rule broken alone. -/
theorem witness_ModelFaultTable :
    (namesNoCell (.readIn 0 16) ∧ ¬ breaksBusyWindow State.reset (.readIn 0 16)) ∧
    (breaksBusyWindow (loaded 0x01 []) (.readReg 0x0C 32) ∧ ¬ namesNoCell (.readReg 0x0C 32) ∧
      ¬ readsEmptyCell (loaded 0x01 []) (.readReg 0x0C 32)) ∧
    (readsEmptyCell State.reset (.readOut 65541 8) ∧ ¬ breaksBusyWindow State.reset (.readOut 65541 8)) ∧
    (∃ t, (commanded 0x03 [] 1).clean ∧ exec .crcBuf (commanded 0x03 [] 1) = .next t) ∧
    Fault.hostHazard ∈ State.faults { State.reset with faults := [.hostHazard] } := by
  refine ⟨⟨.inl (by decide), fun h => by cases h.1⟩, ⟨⟨rfl, not_busyAllows_crcAcc⟩, ?_, ?_⟩,
    ⟨⟨rfl, Config.minCap_le_outCap, rfl⟩, fun h => by cases h.1⟩, ⟨_, rfl, rfl⟩, by decide⟩
  · rintro (h | h)
    · exact h rfl
    · exact h .crcAcc (by decide)
  · rintro ⟨-, r, hr, hn⟩
    have hd : (.crcAcc : Reg) = r := by
      revert hr
      cases r <;> decide
    subst hd
    cases hn

theorem witness_FaultingAccessLeavesTheRest :
    namesNoCell (.writeOut 0 32 0) ∧ (loaded 0x01 []).status.busy = true ∧
      ∃ t, step (commanded 0x03 [] 1) = .next t ∧ ¬ t.clean :=
  ⟨.inl (by decide), rfl, _, rfl, fun h => by cases h⟩

/-- Two rules broken at once, and the read that log entry 12 is about. -/
theorem witness_EveryBrokenRuleAddsItsReason :
    (loaded 0x01 []).clean ∧ (namesNoCell (.writeIn 0 16 0) ∧ breaksBusyWindow (loaded 0x01 []) (.writeIn 0 16 0)) ∧
      readsBeyondIn (.readIn Config.inCap 8) :=
  ⟨rfl, ⟨.inl (by decide), rfl, fun h => by
    rcases h with ⟨_, _, h⟩ | ⟨_, _, h⟩
    · cases h
    · cases h⟩, _, Nat.le_refl _, rfl⟩

theorem witness_StepStopsExactlyOnARecordedFault :
    State.reset.clean ∧ ¬ State.clean { State.reset with faults := [.noValueRead] } := ⟨rfl, fun h => by cases h⟩

theorem witness_HostReadsReturnTheCells :
    (encoded.status.busy = false ∧ encoded.status.oValid = true ∧ encoded.outLen = some 8) ∧
    (decoded.status.busy = false ∧ decoded.status.fValid = true ∧ decoded.fHdr = some 0 ∧ decoded.fLen = some 7 ∧
      decoded.fCrc = some 0xB2CE) ∧
    (decoded.status.rValid = true ∧ decoded.rEcho = some 0xA0 ∧ decoded.rWeight = some 0xFFFFFFFF ∧ decoded.rDiv = some 0x80 ∧
      decoded.rStable = some 0x80) :=
  ⟨⟨rfl, rfl, rfl⟩, ⟨rfl, rfl, rfl, rfl, rfl⟩, rfl, rfl, rfl, rfl, rfl⟩

/-- An operand of each operation that has one, the empty and the largest of FRM.ENC among them. -/
theorem witness_ResultsAsTheHostReadsThem :
    ((loaded 0x03 []).operandIs [] ∧ ([] : List Byte).length ≤ Config.inCap) ∧
    ((loaded 0x10 []).operandIs [] ∧ (loaded 0x10 (List.replicate 65535 0)).operandIs (List.replicate 65535 0) ∧
      (List.replicate 65535 (0 : Byte)).length ≤ 65535) ∧
    ((loaded 0x11 [0, 0, 0, 0, 1, 5, 0, 5]).operandIs [0, 0, 0, 0, 1, 5, 0, 5] ∧ (be16 0 1).toNat = ([5] : List Byte).length) ∧
    (loaded 0x20 response).operandIs response :=
  ⟨⟨loaded_operandIs _ _ (by decide), Nat.zero_le _⟩,
    ⟨loaded_operandIs _ _ (by decide), loaded_operandIs _ _ (by rw [List.length_replicate]; decide),
      Nat.le_of_eq List.length_replicate⟩,
    ⟨loaded_operandIs _ _ (by decide), by decide⟩, loaded_operandIs _ _ (by decide)⟩

/-- A write of each register, and a step that changes each: by a write, at the end of a COPYOUT, and by RESET. -/
theorem witness_CtrlAndInLenHoldTheLastWord :
    (State.reset.status.busy = false ∧ (hosting [.wr .ctrl 0xFFFFFFFF] State.reset).hostAbout (.wr .ctrl 0xFFFFFFFF) [] ∧
      (hosting [.wr .inLen 0xFFFFFFFF] State.reset).hostAbout (.wr .inLen 0xFFFFFFFF) []) ∧
    (∃ t, step (hosting [.reset] (loaded 0x20 [1])) = .next t ∧ t.ctrl ≠ (loaded 0x20 [1]).ctrl ∧
      t.inLen ≠ (loaded 0x20 [1]).inLen) ∧
    ∃ t, step (hosting [.copyFrom 8 8] State.reset) = .next t ∧ t.inLen ≠ State.reset.inLen :=
  ⟨⟨rfl, ⟨rfl, rfl, rfl⟩, rfl, rfl, rfl⟩, ⟨_, rfl, by decide, by decide⟩, _, rfl, by decide⟩

end Sys2Proof.Tests
end

section
/-! The state family (10_state.md): what a completion, a host access and a host turn leave in STATUS and in FAULTS. -/

open Sys2Proof.Claims

namespace Sys2Proof.Machine

/-! ### What a completion can do -/

/-- An operation that answers `t` ended in an error of its own, in the model fault NoValueRead, or succeeded. -/
theorem exec_next_cases {i : Instr} {s t : State} (h : exec i s = .next t) :
    (∃ e, e ≠ .illegalOp ∧ t = s.raise e (some i)) ∨ t = s.modelFault .noValueRead ∨ ExecSuccess s t i := by
  obtain ⟨t', ht', hcases⟩ := exec_cases i s
  cases h.symm.trans ht'
  exact hcases

/-- A completion either raises IllegalOp for a word that names no operation, or runs the operation the word names. -/
theorem State.codecComplete_cases {s t : State} (h : s.codecComplete = .next t) :
    t = s.raise .illegalOp none ∨ ∃ i, decode s.pend = .ok i ∧ exec i s = .next t := by
  unfold State.codecComplete at h
  split at h
  next i hi => exact .inr ⟨i, hi, h⟩
  next => cases h; exact .inl rfl

theorem State.modelFault_not_clean (r : Fault) (s : State) : ¬ (s.modelFault r).clean := by
  intro h
  have hr : r ∈ (s.modelFault r).faults := mem_addFault.2 (.inr rfl)
  rw [h] at hr
  cases hr

/-- A success leaves BUSY = 0, DONE = 1 and ERR = 0 (R91), and FAULTS as it is. -/
theorem ExecSuccess.completed {s t : State} {i : Instr} (h : ExecSuccess s t i) :
    t.status.busy = false ∧ t.status.done = true ∧ t.status.err = false ∧ t.faults = s.faults := by
  cases i with
  | crcInit => subst h; simp
  | crcByte b => subst h; simp
  | crcBuf => obtain ⟨bs, -, -, rfl⟩ := h; simp
  | frmEnc => obtain ⟨cmd, -, -, rfl⟩ := h; simp
  | frmDec => obtain ⟨f, -, -, rfl⟩ := h; simp
  | rspDec => obtain ⟨f, r, -, -, -, rfl⟩ := h; simp

/-- An operation that raises no model fault leaves DONE = 1 and BUSY = 0 (R21). -/
theorem exec_clean_status {i : Instr} {s t : State} (h : exec i s = .next t) (ht : t.clean) :
    t.status.done = true ∧ t.status.busy = false := by
  obtain ⟨e, -, rfl⟩ | rfl | hs := exec_next_cases h
  · simp
  · exact absurd ht (s.modelFault_not_clean _)
  · obtain ⟨hbusy, hdone, -, -⟩ := hs.completed
    exact ⟨hdone, hbusy⟩

/-- A completion that raises no model fault leaves DONE = 1 and BUSY = 0 (R21). -/
theorem State.codecComplete_clean_status {s t : State} (h : s.codecComplete = .next t) (ht : t.clean) :
    t.status.done = true ∧ t.status.busy = false := by
  obtain rfl | ⟨i, -, hi⟩ := State.codecComplete_cases h
  · simp
  · exact exec_clean_status hi ht

/-- While an operation is pending, the codec's step is its completion. -/
theorem State.codecAbout.step_eq {s : State} (h : s.codecAbout) : step s = s.takeTurn.codecComplete := by
  obtain ⟨hclean, hmover, hbusy⟩ := h
  rw [step_clean hclean, State.turn_codec hmover, State.codecTurn, State.takeTurn_status, if_pos hbusy]

/-- A step that completes without a model fault leaves DONE = 1 and BUSY = 0 (R21). -/
theorem State.codecAbout.step_status {s t : State} (h : s.codecAbout) (hstep : step s = .next t) (ht : t.clean) :
    t.status.done = true ∧ t.status.busy = false :=
  State.codecComplete_clean_status (h.step_eq ▸ hstep) ht

/-! ### What a host access and a host turn leave in STATUS -/

/-- While BUSY = 0 a word written to a register breaks no rule, so it has its effect (R17, R107). -/
theorem State.hostAccess_writeReg {r : Reg} {v : Word} {s : State} (hb : s.status.busy = false) :
    s.hostAccess (.writeReg r.offset 32 v) = s.writeReg r v := by
  have h : (Access.writeReg r.offset 32 v).reasons s = [] :=
    (Access.reasons_eq_nil _ _).2 ⟨by simp [Access.addressExists], by simp [hb], rfl⟩
  rw [State.hostAccess_allowed h]
  simp [Access.perform]

/-- The step in which the host makes an access of its program. -/
theorem State.hostAbout.step_access {s : State} {x : Access} {rest : List HostStmt} (h : s.hostAbout (.access x) rest) :
    step s = .next ({ s with turns := s.turns.tail, program := rest }.hostAccess x) := by
  obtain ⟨hclean, hmover, hprogram⟩ := h
  have hturn : s.takeTurn.hostTurn = s.takeTurn.hostDoes x rest := by
    rw [State.hostTurn, State.takeTurn_program, hprogram]
  rw [step_clean hclean, State.turn_host hmover, hturn]
  rfl

/-- The step in which the host writes a register while BUSY = 0. -/
theorem State.hostAbout.step_wr {s : State} {r : Reg} {w : Word} {rest : List HostStmt}
    (h : s.hostAbout (.wr r w) rest) (hb : s.status.busy = false) :
    step s = .next ({ s with turns := s.turns.tail, program := rest }.writeReg r w) :=
  (State.hostAbout.step_access h).trans (congrArg Host.Outcome.next (State.hostAccess_writeReg hb))

/-- STATUS is written by no host access but a command (R18, R19). -/
theorem State.hostAccess_status (x : Access) (s : State) :
    (s.hostAccess x).status = s.status ∨ s.status.busy = false ∧ ∃ w, x = .writeReg Reg.ctrl.offset 32 w := by
  obtain ⟨fs, -, h⟩ | ⟨o, h⟩ | h | ⟨w, hb, hx, -⟩ | ⟨w, -, -, h⟩ | ⟨a, v, -, -, -, h⟩ := State.hostAccess_cases x s
  · rw [h]; exact .inl rfl
  · rw [h]; exact .inl rfl
  · rw [h]; exact .inl rfl
  · exact .inr ⟨hb, w, hx⟩
  · rw [h]; exact .inl rfl
  · rw [h]; exact .inl rfl

theorem State.hostDoes_status {x : Access} (hx : ∀ w, x ≠ .writeReg Reg.ctrl.offset 32 w) (p : List HostStmt) (s : State) :
    (s.hostDoes x p).status = s.status :=
  (State.hostAccess_status x { s with program := p }).resolve_right fun ⟨_, w, hw⟩ => hx w hw

/-- A turn of the host leaves STATUS unless it gives a command or is RESET (R19). -/
theorem State.hostTurn_status (s : State) :
    s.hostTurn.status = s.status ∨ (∃ rest, s.program = .reset :: rest ∧ s.hostTurn.status = Status.reset) ∨
      (s.status.busy = false ∧ ∃ w rest, s.program = .wr .ctrl w :: rest) := by
  unfold State.hostTurn
  split
  next => exact .inl rfl
  next x p hp =>
    obtain h | ⟨hb, w, rfl⟩ := State.hostAccess_status x { s with program := p }
    · exact .inl h
    · exact .inr (.inr ⟨hb, w, p, hp⟩)
  next p hp => exact .inr (.inl ⟨p, hp, rfl⟩)
  next => exact .inl (State.hostDoes_status (fun w h => by cases h) _ s)
  next => exact .inl (State.hostDoes_status (fun w h => by cases h) _ s)
  next =>
    split
    · exact .inl (State.hostDoes_status (fun w h => by cases h) _ s)
    · exact .inl (State.hostDoes_status (fun w h => by cases h) _ s)

/-- A step that changes STATUS is a completion, RESET or a command (R19). -/
theorem step_status_cases {s t : State} (h : step s = .next t) :
    t.status = s.status ∨ s.codecAbout ∨ (∃ rest, s.hostAbout .reset rest ∧ t.status = Status.reset) ∨
      (s.status.busy = false ∧ ∃ w rest, s.hostAbout (.wr .ctrl w) rest) := by
  obtain ⟨hclean, ⟨hm, rfl⟩ | ⟨-, -, rfl⟩ | ⟨hm, hb, -⟩⟩ := step_cases h
  · obtain h | ⟨rest, hp, h⟩ | ⟨hb, w, rest, hp⟩ := State.hostTurn_status s.takeTurn
    · exact .inl h
    · exact .inr (.inr (.inl ⟨rest, ⟨hclean, hm, hp⟩, h⟩))
    · exact .inr (.inr (.inr ⟨hb, w, rest, hclean, hm, hp⟩))
  · exact .inl rfl
  · exact .inr (.inl ⟨hclean, hm, hb⟩)

/-! ### FAULTS keeps its members (R39) -/

theorem exec_keeps_faults {i : Instr} {s t : State} (h : exec i s = .next t) {r : Fault} (hr : r ∈ s.faults) :
    r ∈ t.faults := by
  obtain ⟨e, -, rfl⟩ | rfl | hs := exec_next_cases h
  · exact hr
  · exact mem_addFault.2 (.inl hr)
  · obtain ⟨-, -, -, hfaults⟩ := hs.completed
    exact hfaults ▸ hr

theorem State.codecComplete_keeps_faults {s t : State} (h : s.codecComplete = .next t) {r : Fault} (hr : r ∈ s.faults) :
    r ∈ t.faults := by
  obtain rfl | ⟨i, -, hi⟩ := State.codecComplete_cases h
  · exact hr
  · exact exec_keeps_faults hi hr

theorem State.hostAccess_keeps_faults (x : Access) {s : State} {r : Fault} (hr : r ∈ s.faults) :
    r ∈ (s.hostAccess x).faults :=
  (State.mem_hostAccess_faults x s r).2 (.inl hr)

theorem State.hostTurn_keeps_faults {s : State} {r : Fault} (hr : r ∈ s.faults) : r ∈ s.hostTurn.faults := by
  obtain h | ⟨p, h⟩ | ⟨p, x, h⟩ := s.hostTurn_cases
  · rw [h]; exact hr
  · rw [h]; exact hr
  · rw [h]; exact State.hostAccess_keeps_faults x hr

/-! ### The valid bits (R24) -/

/-- R24's row of an operation: the valid bits it leaves in `t`, when it was run in `s`. -/
def ValidBitsRow (s t : State) : Instr → Prop
  | .crcInit | .crcByte _ | .crcBuf =>
    t.status.oValid = s.status.oValid ∧ t.status.fValid = s.status.fValid ∧ t.status.rValid = s.status.rValid
  | .frmEnc => t.status.oValid = !t.status.err ∧ t.status.fValid = false ∧ t.status.rValid = false
  | .frmDec => t.status.oValid = !t.status.err ∧ t.status.fValid = !t.status.err ∧ t.status.rValid = false
  | .rspDec => t.status.oValid = false ∧ t.status.fValid = !t.status.err ∧ t.status.rValid = !t.status.err

/-- An error other than IllegalOp clears the valid bits exactly in the frame operations (R92). -/
theorem clearsValid_some {e : CodecError} (h : e ≠ .illegalOp) (i : Instr) :
    clearsValid e (some i) = clearsValidOnError i := by
  simp [clearsValid, h]

theorem clearsValid_none (e : CodecError) : clearsValid e none = false := by
  simp [clearsValid]

theorem State.raise_validBitsRow {e : CodecError} (h : e ≠ .illegalOp) (i : Instr) (s : State) :
    ValidBitsRow s (s.raise e (some i)) i := by
  have hkeep := clearsValid_some h i
  cases i <;> simp [ValidBitsRow, hkeep, clearsValidOnError]

theorem ExecSuccess.validBitsRow {s t : State} {i : Instr} (h : ExecSuccess s t i) : ValidBitsRow s t i := by
  cases i with
  | crcInit => subst h; simp [ValidBitsRow]
  | crcByte b => subst h; simp [ValidBitsRow]
  | crcBuf => obtain ⟨bs, -, -, rfl⟩ := h; simp [ValidBitsRow]
  | frmEnc => obtain ⟨cmd, -, -, rfl⟩ := h; simp [ValidBitsRow]
  | frmDec => obtain ⟨f, -, -, rfl⟩ := h; simp [ValidBitsRow]
  | rspDec => obtain ⟨f, r, -, -, -, rfl⟩ := h; simp [ValidBitsRow]

/-- Every completion of an operation without a model fault leaves the valid bits of its row (R24). -/
theorem exec_validBitsRow {i : Instr} {s t : State} (h : exec i s = .next t) (ht : t.clean) : ValidBitsRow s t i := by
  obtain ⟨e, he, rfl⟩ | rfl | hs := exec_next_cases h
  · exact s.raise_validBitsRow he i
  · exact absurd ht (s.modelFault_not_clean _)
  · exact hs.validBitsRow

/-! ### The words that name no operation (R59) -/

/-- The codes R58 does not list are those the decoder finds no operation for. -/
theorem unlistedOp_iff (o : Byte) :
    o ∉ [opCrcInit, opCrcByte, opCrcBuf, opFrmEnc, opFrmDec, opRspDec] ↔ o ≠ opCrcByte ∧ opWithoutOperand o = none := by
  have hnone : opWithoutOperand o = none ↔ o ∉ [opCrcInit, opCrcBuf, opFrmEnc, opFrmDec, opRspDec] := by
    unfold opWithoutOperand
    repeat' split
    all_goals simp_all
  rw [hnone]
  simp only [List.mem_cons]
  tauto

/-- The decoder refuses exactly the words R59 lists. -/
theorem decode_eq_error_iff (w : Word) : (∃ r, decode w = .error r) ↔ illegalWord w := by
  change _ ↔ rsvField w ≠ 0 ∨ opField w ∉ [opCrcInit, opCrcByte, opCrcBuf, opFrmEnc, opFrmDec, opRspDec] ∨
    (imm8Field w ≠ 0 ∧ opField w ≠ opCrcByte)
  rw [unlistedOp_iff, decode]
  by_cases hrsv : rsvField w = 0
  · by_cases hbyte : opField w = opCrcByte
    · simp [hrsv, hbyte]
    · cases hlisted : opWithoutOperand (opField w) with
      | none => simp [hrsv, hbyte]
      | some i =>
        by_cases himm : imm8Field w = 0
        · simp [hrsv, hbyte, himm]
        · rw [if_neg (not_not.2 hrsv), if_neg hbyte]
          exact ⟨fun _ => .inr (.inr ⟨himm, hbyte⟩), fun _ => ⟨_, if_neg himm⟩⟩
  · exact ⟨fun _ => .inl hrsv, fun _ => ⟨_, if_pos hrsv⟩⟩

/-- The completion of a word R59 lists is IllegalOp. -/
theorem State.codecComplete_illegal {s : State} (h : illegalWord s.pend) :
    s.codecComplete = .next (s.raise .illegalOp none) := by
  obtain ⟨r, hr⟩ := (decode_eq_error_iff _).2 h
  rw [State.codecComplete, hr]

/-! ### What a register and an OUT byte read as -/

@[simp] theorem guarded_false {n : Nat} (c : Cell (BitVec n)) : guarded false c = none := rfl

@[simp] theorem guarded_true {n : Nat} (c : Cell (BitVec n)) : guarded true c = c.map (·.setWidth 32) := rfl

/-- A cell's read value has only the cell's bits (R17). -/
theorem guarded_lt {n : Nat} (hn : n ≤ 32) {valid : Bool} {c : Cell (BitVec n)} {v : Word} (h : guarded valid c = some v) :
    v.toNat < 2 ^ n := by
  cases valid with
  | false => cases h
  | true =>
    obtain ⟨u, -, rfl⟩ := Option.map_eq_some_iff.1 h
    rw [BitVec.toNat_setWidth_of_le hn]
    exact u.isLt

/-- With O_VALID = 0 no OUT byte has a value (R43). -/
theorem State.outByte_of_invalid {s : State} (h : s.status.oValid = false) (a : Nat) : s.outByte a = none := by
  simp [State.outByte, h]

/-- The width of a register's type (R18 to R36). -/
def Reg.bits : Reg → Nat
  | .ctrl | .status | .inLen | .outLen | .rWeight => 32
  | .hdrConst | .fHdr => 24
  | .crcAcc | .fLen | .fCrc => 16
  | .rEcho | .rDiv | .rStable => 8

/-- The bits a register's type does not have read 0 (R17). -/
theorem State.regValue_lt {s : State} {r : Reg} {v : Word} (h : s.regValue r = some v) : v.toNat < 2 ^ r.bits := by
  cases r with
  | ctrl | status | inLen | outLen | rWeight => exact v.isLt
  | crcAcc => exact guarded_lt (valid := true) (c := some s.crcAcc) (by decide) h
  | hdrConst => exact guarded_lt (valid := true) (c := some Config.header) (by decide) h
  | fHdr | fLen | fCrc | rEcho | rDiv | rStable => exact guarded_lt (by decide) h

/-! ### The register table (R17) -/

theorem mem_registerTable {o : Nat} {r : Reg} : (o, r) ∈ registerTable ↔ o = r.offset := by
  cases r <;> simp [registerTable, Reg.offset]

/-- The registers an offset and a width name are the table's, at a width of 32. -/
theorem Reg.at_eq_some_iff {o w : Nat} {r : Reg} : Reg.at o w = some r ↔ w = 32 ∧ (o, r) ∈ registerTable := by
  rw [mem_registerTable]
  constructor
  · intro h
    exact (Reg.at_eq_some h).symm
  · rintro ⟨rfl, rfl⟩
    exact Reg.at_offset r

theorem Reg.at_eq_none {o w : Nat} (h : w ≠ 32 ∨ ∀ r, (o, r) ∉ registerTable) : Reg.at o w = none := by
  refine Option.eq_none_iff_forall_ne_some.2 fun r hr => ?_
  obtain ⟨hw, hmem⟩ := Reg.at_eq_some_iff.1 hr
  exact h.elim (fun hne => hne hw) (fun hnone => hnone r hmem)

/-- A write to a register that is neither CTRL nor IN_LEN has no effect (R17). -/
theorem State.writeReg_readOnly {r : Reg} (hc : r ≠ .ctrl) (hi : r ≠ .inLen) (v : Word) (s : State) : s.writeReg r v = s := by
  cases r with
  | ctrl => exact absurd rfl hc
  | inLen => exact absurd rfl hi
  | _ => rfl

end Sys2Proof.Machine

namespace Sys2Proof.Proofs

open Sys2Proof.Machine

/-- Settles O43: each kind of move keeps the members of FAULTS, and RESET leaves the list itself. -/
theorem faultsStick : Obligations.FaultsStick :=
  ⟨rfl, fun _ _ _ h _ hr => exec_keeps_faults h hr, fun _ _ h _ hr => State.codecComplete_keeps_faults h hr,
    fun _ x _ hr => State.hostAccess_keeps_faults x hr, fun _ _ hr => State.hostTurn_keeps_faults hr,
    State.resetEvent_faults⟩

/-- Settles O27: a completion without model fault sets DONE, a command clears it, and by `step_status_cases` only those two and
RESET write STATUS. -/
theorem doneIsSetByEveryCompletion : Obligations.DoneIsSetByEveryCompletion := by
  refine ⟨fun s t h hstep ht => h.step_status hstep ht, fun s w rest h hb => ⟨_, h.step_wr hb, rfl⟩, ?_, rfl, rfl⟩
  intro s t hb hstep hcommand
  obtain h | ⟨-, -, hbusy⟩ | ⟨rest, hreset, h⟩ | ⟨-, w, rest, hw⟩ := step_status_cases hstep
  · rw [h]; exact ⟨hb, .inl rfl⟩
  · rw [hb] at hbusy; cases hbusy
  · rw [h]; exact ⟨rfl, .inr ⟨rest, hreset, rfl⟩⟩
  · exact absurd hw (hcommand w rest)

/-- Settles O32: the command's step is `State.command` after the turn, and by `step_status_cases` nothing but a completion, RESET
or a command, which needs BUSY = 0, writes STATUS. -/
theorem commandStartsTheOperation : Obligations.CommandStartsTheOperation := by
  refine ⟨fun s w rest h hb => h.step_wr hb, ?_, fun s t h hstep ht => (h.step_status hstep ht).2, rfl⟩
  intro s t hb hstep hcodec hreset
  obtain h | h | ⟨rest, h, -⟩ | ⟨hidle, -⟩ := step_status_cases hstep
  · exact h
  · exact absurd h hcodec
  · exact absurd h (hreset rest)
  · rw [hb] at hidle; cases hidle

/-- Settles O26: R24's row of each operation, IllegalOp's frame, and the guards of the registers and of OUT. -/
theorem validBitsTable : Obligations.ValidBitsTable := by
  refine ⟨fun s t i _ h ht => ?_, fun s t hw h => ?_, fun s => ⟨fun h => ?_, fun h => ?_, fun h => ?_⟩, rfl, rfl, rfl⟩
  · have hrow := exec_validBitsRow h ht
    cases i <;> exact hrow
  · cases (State.codecComplete_illegal hw).symm.trans h
    simp [clearsValid_none]
  · exact ⟨by simp [State.regValue, h], State.outByte_of_invalid h⟩
  · simp [State.regValue, h]
  · simp [State.regValue, h]

/-- Settles O34: the table names the registers, and what each access to one does is said by the laws of the host port. -/
theorem registerFile : Obligations.RegisterFile := by
  refine ⟨fun o w r => Reg.at_eq_some_iff, fun s o w v h x hx => ?_, fun s o r v hr hc hi hb => ?_,
    fun s o r v hr hb hv => ?_, fun s => ?_, fun s v => ?_, by rfl⟩
  · have hnone := Reg.at_eq_none h
    have hexists : x.addressExists = false := by
      obtain rfl | rfl : x = .readReg o w ∨ x = .writeReg o w v := by simpa using hx
      · simp [Access.addressExists, hnone]
      · simp [Access.addressExists, hnone]
    exact (State.mem_hostAccess_faults x s _).2 (.inr ((Access.badAddress_mem x s).2 hexists))
  · obtain rfl := mem_registerTable.1 hr
    rw [State.hostAccess_writeReg hb, State.writeReg_readOnly hc hi]
  · obtain rfl := mem_registerTable.1 hr
    exact State.hostAccess_readReg hv (by simp [hb])
  · refine ⟨rfl, rfl, rfl, rfl, rfl, fun h => ?_, fun h => ?_, fun h => ?_⟩
    · simp [State.regValue, h]
    · simp [State.regValue, h]
    · simp [State.regValue, h]
  · have hbits : ∀ n, ∀ r, r.bits = n → s.regValue r = some v → v.toNat < 2 ^ n :=
      fun n r hr h => hr ▸ State.regValue_lt h
    exact ⟨fun r hr => hbits 16 r (by revert r; decide), fun r hr => hbits 24 r (by revert r; decide),
      fun r hr => hbits 8 r (by revert r; decide)⟩

end Sys2Proof.Proofs
end

section
/-! The memory family (20_memory.md): what an access that breaks no rule does, and what making it again does. -/

open Sys2Proof.Claims

namespace Sys2Proof.Machine

/-- An access after which FAULTS is empty broke no rule (R97). -/
theorem State.hostAccess_clean_reasons {x : Access} {s : State} (h : (s.hostAccess x).clean) : x.reasons s = [] := by
  refine List.eq_nil_iff_forall_not_mem.2 fun q hq => ?_
  have hmem : q ∈ (s.hostAccess x).faults := (State.mem_hostAccess_faults x s q).2 (.inr hq)
  rw [h] at hmem
  cases hmem

/-- An access the busy window does not allow breaks no rule only while BUSY = 0 (R107). -/
theorem Access.idle_of_reasons_nil {x : Access} {s : State} (h : x.reasons s = []) (hx : x.allowedWhileBusy = false) :
    s.status.busy = false := by
  obtain ⟨-, hbusy, -⟩ := (Access.reasons_eq_nil x s).1 h
  exact Bool.eq_false_iff.2 fun hb => Bool.eq_false_iff.1 hx (hbusy hb)

/-- A byte read of IN_BUF that breaks no rule, busy or not (R42, R51, R107). -/
theorem State.hostAccess_readIn {a : Nat} {v : Byte} {s : State} (hv : s.inBuf.read a = some v) (ha : a < Config.inCap) :
    s.hostAccess (.readIn a 8) = s.observe (.inByte a v) := by
  have h : (Access.readIn a 8).reasons s = [] :=
    (Access.reasons_eq_nil _ _).2
      ⟨Access.inCell_exists.2 ⟨rfl, ha⟩, by simp [Access.allowedWhileBusy], by simp [Access.readsNoValue, hv]⟩
  rw [State.hostAccess_allowed h]
  simp [Access.perform, hv]

/-- A read that breaks no rule adds one observation to the host's trace, the same one whatever the trace holds (R51). -/
theorem State.hostAccess_read {x : Access} {s : State} (hx : isRead x) (h : x.reasons s = []) :
    ∃ o, ∀ tr, { s with trace := tr }.hostAccess x = { s with trace := tr ++ [o] } := by
  obtain ⟨hexists, hbusy, hvalue⟩ := (Access.reasons_eq_nil x s).1 h
  cases x with
  | readReg o w =>
    obtain ⟨r, hr⟩ := Option.isSome_iff_exists.1 hexists
    obtain ⟨rfl, rfl⟩ := Reg.at_eq_some hr
    obtain ⟨v, hv⟩ : ∃ v, s.regValue r = some v :=
      Option.isSome_iff_exists.1 (by simpa [Access.readsNoValue] using hvalue)
    refine ⟨.reg r v, fun tr => State.hostAccess_readReg (s := { s with trace := tr }) hv ?_⟩
    simpa [Access.allowedWhileBusy] using hbusy
  | readIn a w =>
    rw [Access.addressExists] at hexists
    obtain ⟨v, hv⟩ : ∃ v, s.inBuf.read a = some v :=
      Option.isSome_iff_exists.1 (by simpa [Access.readsNoValue, hexists] using hvalue)
    obtain ⟨rfl, ha⟩ := Access.inCell_exists.1 hexists
    exact ⟨.inByte a v, fun tr => State.hostAccess_readIn (s := { s with trace := tr }) hv ha⟩
  | readOut a w =>
    rw [Access.addressExists] at hexists
    obtain ⟨v, hv⟩ : ∃ v, s.outByte a = some v :=
      Option.isSome_iff_exists.1 (by simpa [Access.readsNoValue, hexists] using hvalue)
    obtain ⟨rfl, ha⟩ := Access.outCell_exists.1 hexists
    exact ⟨.outByte a v, fun tr =>
      State.hostAccess_readOut (s := { s with trace := tr }) hv ha (Access.idle_of_reasons_nil h rfl)⟩
  | writeReg o w v => exact absurd hx id
  | writeIn a w v => exact absurd hx id
  | writeOut a w v => exact absurd hx id

/-- A write to a register that breaks no rule names one, at a width of 32 bits, while BUSY = 0 (R17, R107). -/
theorem State.hostAccess_writeReg_allowed {o w : Nat} {v : Word} {s : State} (h : (Access.writeReg o w v).reasons s = []) :
    ∃ r : Reg, o = r.offset ∧ s.hostAccess (.writeReg o w v) = s.writeReg r v := by
  obtain ⟨hexists, -, -⟩ := (Access.reasons_eq_nil _ s).1 h
  obtain ⟨r, hr⟩ := Option.isSome_iff_exists.1 hexists
  obtain ⟨rfl, rfl⟩ := Reg.at_eq_some hr
  exact ⟨r, rfl, State.hostAccess_writeReg (Access.idle_of_reasons_nil h rfl)⟩

end Sys2Proof.Machine

namespace Sys2Proof.Proofs

open Sys2Proof.Machine

/-- Settles O36: an access that leaves FAULTS empty broke no rule, so it has the effect R51 names and no other, and making it
again, from a state that differs in the cell alone, breaks none either. -/
theorem accessSideEffects : Obligations.AccessSideEffects := by
  refine ⟨fun s x _ hx h => ?_, fun s a w v _ h => ?_, fun s a w v _ h => ?_, fun s v _ h => ?_, fun s o w v _ hc hi h => ?_,
    fun s v _ hb => ⟨State.hostAccess_writeReg (r := .ctrl) hb, rfl⟩⟩
  · obtain ⟨o, ho⟩ := State.hostAccess_read hx (State.hostAccess_clean_reasons h)
    have hread : s.hostAccess x = { s with trace := s.trace ++ [o] } := ho s.trace
    refine ⟨o, hread, ?_⟩
    rw [hread, ho]
    simp
  · have hr := State.hostAccess_clean_reasons h
    have hwrite : ∀ m : Memory, { s with inBuf := m }.hostAccess (.writeIn a w v) = { s with inBuf := m.write a v } :=
      fun m => State.hostAccess_allowed (s := { s with inBuf := m }) hr
    have hs : s.hostAccess (.writeIn a w v) = { s with inBuf := s.inBuf.write a v } := hwrite s.inBuf
    refine ⟨s.inBuf.write a v, hs, Memory.read_write_same _ _ _, fun k hk => Memory.read_write_other _ v hk, ?_⟩
    rw [hs, hwrite, Memory.write_write]
  · exact State.hostAccess_allowed (State.hostAccess_clean_reasons h)
  · have hb : s.status.busy = false := Access.idle_of_reasons_nil (State.hostAccess_clean_reasons h) rfl
    have hwrite : ∀ n : Word, { s with inLen := n }.hostAccess (.writeReg 0x08 32 v) = { s with inLen := v } :=
      fun n => State.hostAccess_writeReg (r := .inLen) (s := { s with inLen := n }) hb
    have hs : s.hostAccess (.writeReg 0x08 32 v) = { s with inLen := v } := hwrite s.inLen
    exact ⟨hs, by rw [hs, hwrite]⟩
  · obtain ⟨r, rfl, hr⟩ := State.hostAccess_writeReg_allowed (State.hostAccess_clean_reasons h)
    rw [hr]
    refine State.writeReg_readOnly ?_ ?_ v s
    · rintro rfl; exact hc rfl
    · rintro rfl; exact hi rfl

end Sys2Proof.Proofs
end

section
/-! The encoding family (30_encoding.md): a command word as its three fields, the decoder as the inverse of the encoder, and the
assembler. -/

open Sys2Proof.Claims

namespace Sys2Proof

/-! ### The fields of a command word (R57) -/

/-- A word is the one with given fields exactly when it has them. -/
theorem eq_commandWord_iff {w : Word} {b o : Byte} :
    w = commandWord b o ↔ rsvField w = 0 ∧ opField w = o ∧ imm8Field w = b := by
  constructor
  · rintro rfl
    simp
  · rintro ⟨hrsv, rfl, rfl⟩
    exact eq_commandWord_of_rsv hrsv

/-- The mask of R60's CRC.BYTE row leaves OP and RSV, and drops IMM8. -/
theorem and_mask_eq_crcByte_iff (w : Word) :
    w &&& 0xFFFF00FF = 0x00000002 ↔ rsvField w = 0 ∧ opField w = opCrcByte := by
  have hrsv : rsvField (w &&& 0xFFFF00FF) = rsvField w := by
    rw [rsvField, BitVec.extractLsb'_and]
    exact BitVec.and_allOnes
  have hop : opField (w &&& 0xFFFF00FF) = opField w := by
    rw [opField, BitVec.extractLsb'_and]
    exact BitVec.and_allOnes
  have himm : imm8Field (w &&& 0xFFFF00FF) = 0 := by
    rw [imm8Field, BitVec.extractLsb'_and]
    exact BitVec.and_zero
  change _ = commandWord 0 opCrcByte ↔ _
  rw [eq_commandWord_iff, hrsv, hop, himm, and_iff_left rfl]

/-! ### The decoder inverts the encoder (R58, R60) -/

/-- The encoder leaves RSV 0 (R57). -/
theorem rsvField_encode (i : Instr) : rsvField (encode i) = 0 := by
  cases i <;> exact rsvField_commandWord _ _

theorem decode_encode (i : Instr) : decode (encode i) = .ok i := by
  cases i with
  | crcByte b => simp [encode, decode]
  | _ => rfl

/-- A code that takes no operand stands in its operation's word beside IMM8 = 0. -/
theorem encode_of_opWithoutOperand {o : Byte} {i : Instr} (h : opWithoutOperand o = some i) : encode i = commandWord 0 o := by
  obtain ⟨hop, himm, -⟩ := opWithoutOperand_eq_some h
  exact eq_commandWord_iff.2 ⟨rsvField_encode i, hop.symm, himm⟩

theorem encode_of_decode {w : Word} {i : Instr} (h : decode w = .ok i) : encode i = w := by
  unfold decode at h
  split at h
  next => cases h
  next hrsv =>
    have hrsv : rsvField w = 0 := not_not.1 hrsv
    split at h
    next hop =>
      cases h
      exact (eq_commandWord_iff.2 ⟨hrsv, hop, rfl⟩).symm
    next =>
      split at h
      next => cases h
      next j hj =>
        split at h
        next himm =>
          cases h
          exact (encode_of_opWithoutOperand hj).trans (eq_commandWord_iff.2 ⟨hrsv, rfl, himm⟩).symm
        next => cases h

/-- A word decodes to an operation exactly when it is that operation's word. -/
theorem decode_eq_ok_iff {w : Word} {i : Instr} : decode w = .ok i ↔ w = encode i := by
  constructor
  · intro h
    exact (encode_of_decode h).symm
  · rintro rfl
    exact decode_encode i

/-- CRC.BYTE is the one operation with a word for each value of IMM8 (R58). -/
theorem decode_eq_crcByte_iff {w : Word} {b : Byte} :
    decode w = .ok (.crcByte b) ↔ rsvField w = 0 ∧ opField w = opCrcByte ∧ imm8Field w = b :=
  decode_eq_ok_iff.trans eq_commandWord_iff

/-! ### The assembler (R70) -/

theorem OpStatement.wellFormed_iff (m : Mnemonic) (ns : List Nat) :
    (OpStatement.mk m ns).wellFormed = true ↔ ns.length = m.arity ∧ ∀ n ∈ ns, n ≤ 255 := by
  simp [OpStatement.wellFormed]

theorem wellFormed_of_assemble {o : OpStatement} {i : Instr} (h : assemble o = some i) : o.wellFormed = true := by
  by_contra hw
  rw [assemble, if_neg hw] at h
  cases h

/-- A mnemonic that takes no operand is accepted with none alone. -/
theorem assemble_eq_some_iff_of_arity_zero {m : Mnemonic} {j : Instr} (hm : m.arity = 0) (hj : assemble ⟨m, []⟩ = some j)
    (ns : List Nat) (i : Instr) : assemble ⟨m, ns⟩ = some i ↔ ns = [] ∧ i = j := by
  constructor
  · intro h
    obtain ⟨hlen, -⟩ := (OpStatement.wellFormed_iff m ns).1 (wellFormed_of_assemble h)
    obtain rfl := List.length_eq_zero_iff.1 (hlen.trans hm)
    exact ⟨rfl, Option.some.inj (h.symm.trans hj)⟩
  · rintro ⟨rfl, rfl⟩
    exact hj

theorem assemble_crcByte {n : Nat} (h : n ≤ 255) : assemble ⟨.crcByte, [n]⟩ = some (.crcByte (BitVec.ofNat 8 n)) :=
  if_pos ((OpStatement.wellFormed_iff _ _).2 ⟨rfl, by simpa using h⟩)

theorem assemble_crcByte_eq_some_iff (ns : List Nat) (i : Instr) :
    assemble ⟨.crcByte, ns⟩ = some i ↔ ∃ n, ns = [n] ∧ n ≤ 255 ∧ i = .crcByte (BitVec.ofNat 8 n) := by
  constructor
  · intro h
    obtain ⟨hlen, hbyte⟩ := (OpStatement.wellFormed_iff _ ns).1 (wellFormed_of_assemble h)
    obtain ⟨n, rfl⟩ := List.length_eq_one_iff.1 hlen
    have hn : n ≤ 255 := hbyte n (List.mem_singleton.2 rfl)
    exact ⟨n, rfl, hn, Option.some.inj (h.symm.trans (assemble_crcByte hn))⟩
  · rintro ⟨n, rfl, hn, rfl⟩
    exact assemble_crcByte hn

end Sys2Proof

namespace Sys2Proof.Machine

/-! ### The step that completes a command word (R58, R59) -/

/-- The codec's step runs the operation the latched word decodes to. -/
theorem State.codecAbout.step_of_decode {s : State} {i : Instr} (h : s.codecAbout) (hi : decode s.pend = .ok i) :
    step s = exec i s.takeTurn := by
  rw [h.step_eq, State.codecComplete, State.takeTurn_pend, hi]

/-- The codec's step on a word R59 lists is the IllegalOp completion. -/
theorem State.codecAbout.step_illegal {s : State} (h : s.codecAbout) (hw : illegalWord s.pend) :
    step s = .next (s.takeTurn.raise .illegalOp none) :=
  h.step_eq.trans (State.codecComplete_illegal (s := s.takeTurn) hw)

/-- IllegalOp keeps the valid bits, and its code is 2 (R59, R92). -/
theorem Status.failed_illegalOp (st : Status) : st.failed .illegalOp none = errorKept st 2 := by
  simp [Status.failed, clearsValid_none, errorKept, CodecError.code]

theorem State.raise_illegalOp_agrees (s : State) :
    agrees (s.raise .illegalOp none) { s with status := errorKept s.status 2 } := by
  rw [State.raise, Status.failed_illegalOp]
  rfl

end Sys2Proof.Machine

namespace Sys2Proof.Proofs

open Sys2Proof.Machine

/-- Settles O2: a word of R58's table is its operation's encoding, which the decoder inverts, and every word R59 lists is
IllegalOp. -/
theorem operationMapAtCompletion : Obligations.OperationMapAtCompletion := by
  intro s h
  have hrun : ∀ i, s.pend = encode i → step s = exec i s.takeTurn :=
    fun i hi => h.step_of_decode (decode_eq_ok_iff.2 hi)
  exact ⟨hrun .crcInit, fun b hop himm hrsv => h.step_of_decode (decode_eq_crcByte_iff.2 ⟨hrsv, hop, himm⟩), hrun .crcBuf,
    hrun .frmEnc, hrun .frmDec, hrun .rspDec, h.step_illegal⟩

/-- Settles O3: five operations have one word each, CRC.BYTE the words the mask leaves, and the rest are those of R59. -/
theorem decodeHasSevenOutcomes : Obligations.DecodeHasSevenOutcomes := by
  intro w
  have hbyte : ∀ b, decode w = .ok (.crcByte b) ↔ w &&& 0xFFFF00FF = 0x00000002 ∧ b = imm8 w := fun b => by
    rw [decode_eq_crcByte_iff, and_mask_eq_crcByte_iff, and_assoc, eq_comm (a := b)]
    rfl
  exact ⟨decode_eq_ok_iff, hbyte, decode_eq_ok_iff, decode_eq_ok_iff, decode_eq_ok_iff, decode_eq_ok_iff,
    decode_eq_error_iff w⟩

/-- Settles O5: an accepted statement is well-formed, so it has as many operands as its mnemonic takes, none or the one byte. -/
theorem assemblerAcceptsItsSyntax : Obligations.AssemblerAcceptsItsSyntax :=
  ⟨assemble_crcByte_eq_some_iff, assemble_eq_some_iff_of_arity_zero rfl rfl, assemble_eq_some_iff_of_arity_zero rfl rfl,
    assemble_eq_some_iff_of_arity_zero rfl rfl, assemble_eq_some_iff_of_arity_zero rfl rfl,
    assemble_eq_some_iff_of_arity_zero rfl rfl⟩

/-- Settles O7: the completion of such a word is `State.raise`, after the turn; at reset CTRL is 0, whose OP is in no row. -/
theorem illegalWordCompletes : Obligations.IllegalWordCompletes :=
  ⟨fun w => (decode_eq_error_iff w).2, fun s h hw => ⟨_, h.step_illegal hw, s.takeTurn.raise_illegalOp_agrees⟩,
    .inr (.inl (by decide))⟩

end Sys2Proof.Proofs
end

section
/-! The checksum family (40_checksum.md): CRC.INIT, CRC.BYTE and CRC.BUF on every operand. -/

open Sys2Proof.Claims

namespace Sys2Proof.Machine

/-! ### The two completions (R91, R92) in the terms of the claims -/

/-- A success that leaves the valid bits changes STATUS alone, but for the internal state. -/
theorem State.succeedKeeping_agrees (s : State) : agrees s.succeedKeeping { s with status := plainSuccess s.status } := rfl

/-- An error that does not clear the valid bits leaves them (R92). -/
theorem Status.failed_eq_errorKept {e : CodecError} {i : Option Instr} (h : clearsValid e i = false) (st : Status) :
    st.failed e i = errorKept st e.code := by
  simp [Status.failed, h, errorKept]

/-- An error completion that keeps the valid bits changes STATUS alone, but for the internal state. -/
theorem State.raise_agrees_errorKept {e : CodecError} {i : Option Instr} (h : clearsValid e i = false) (s : State) :
    agrees (s.raise e i) { s with status := errorKept s.status e.code } := by
  rw [State.raise, Status.failed_eq_errorKept h]
  rfl

theorem State.operandIs.latchedLen_eq {s : State} {bs : List Byte} (h : s.operandIs bs) : s.latchedLen.toNat = bs.length :=
  h.left

/-! ### The three operations (R77 to R79) -/

theorem exec_crcInit (s : State) : exec .crcInit s = .next { s with crcAcc := 0 }.succeedKeeping := rfl

theorem exec_crcByte (b : Byte) (s : State) :
    exec (.crcByte b) s = .next { s with crcAcc := crcStep s.crcAcc b }.succeedKeeping := rfl

theorem exec_crcBuf (s : State) : exec .crcBuf s = execCrcBuf s := rfl

/-- The check value of the engine: the checksum of "123456789". -/
theorem checksum_digits : checksum [0x31, 0x32, 0x33, 0x34, 0x35, 0x36, 0x37, 0x38, 0x39] = 0xBEEF := by
  decide +kernel

end Sys2Proof.Machine

namespace Sys2Proof.Proofs

open Sys2Proof.Machine

/-- Settles O15: the three clauses are the three branches of CRC.BUF, since the operand reads as NOVALUE exactly when one of its
bytes was never written, and as `bs` exactly when `bs` lies in `IN[0..N)`. -/
theorem crcBufResult : Obligations.CrcBufResult := by
  refine ⟨rfl, checksum_nil, checksum_digits, fun s => ⟨fun hlen => ?_, fun hlen hmissing => ?_, fun bs hbs hlen => ?_⟩⟩
  · exact ⟨_, (exec_crcBuf s).trans (execCrcBuf_lenRange hlen), s.raise_agrees_errorKept rfl⟩
  · have hnone : s.operand = none := s.operand_eq_none.2 hmissing
    exact ⟨_, (exec_crcBuf s).trans (execCrcBuf_noValue hlen hnone), State.modelFault_faults _ s⟩
  · have hN : s.latchedLen.toNat ≤ Config.inCap := hbs.latchedLen_eq.trans_le hlen
    exact ⟨_, (exec_crcBuf s).trans (execCrcBuf_done hN hbs), State.succeedKeeping_agrees _⟩

/-- Settles O12: another word with OP = 0x01 has RSV or IMM8 nonzero, so it is one of those R59 lists. -/
theorem crcInitResult : Obligations.CrcInitResult := by
  refine ⟨rfl, fun w hop hfields => (decode_eq_error_iff w).2 ?_, fun s => ⟨_, exec_crcInit s, State.succeedKeeping_agrees _⟩⟩
  obtain himm | hrsv := hfields
  · exact .inr (.inr ⟨himm, by rw [hop]; decide⟩)
  · exact .inl hrsv

/-- Settles O13: CRC.BYTE has one branch, a success after the byte step. -/
theorem crcByteResult : Obligations.CrcByteResult :=
  ⟨fun _ => rfl, fun b s => ⟨_, exec_crcByte b s, State.succeedKeeping_agrees _⟩, by decide, by decide, by decide⟩

end Sys2Proof.Proofs
end

section
/-! The frame codec family (41_frame_codec.md): FRM.ENC and FRM.DEC on every operand. -/

open Sys2Proof.Claims

namespace Sys2Proof.Machine

/-! ### The errors that clear the valid bits (R92), and the model fault, in the terms of the claims -/

/-- An error that clears the valid bits leaves nothing of the STATUS before it (R92). -/
theorem Status.failed_eq_errorCleared {e : CodecError} {i : Option Instr} (h : clearsValid e i = true) (st : Status) :
    st.failed e i = errorCleared e.code := by
  simp [Status.failed, h, errorCleared]

/-- An operation that raises an error which clears the valid bits changes STATUS alone. -/
theorem endsInError_errorCleared {i : Instr} {e : CodecError} {s : State} (hclears : clearsValid e (some i) = true)
    (h : exec i s = .next (s.raise e (some i))) : endsInError i s (errorCleared e.code) := by
  refine ⟨_, h, ?_⟩
  rw [State.raise, Status.failed_eq_errorCleared hclears]
  rfl

theorem readsNoValue_of_modelFault {i : Instr} {s : State} (h : exec i s = .next (s.modelFault .noValueRead)) :
    readsNoValue i s :=
  ⟨_, h, State.modelFault_faults _ s⟩

/-! ### What a stored result leaves in OUT (R27, R43) -/

/-- At and beyond OUT_LEN no OUT byte has a value (R43). -/
theorem State.outByte_of_outLen_le {s : State} {n : Word} {k : Nat} (hn : s.outLen = some n) (hk : n.toNat ≤ k) :
    s.outByte k = none := by
  simp [State.outByte, hn, Nat.not_lt.2 hk]

theorem Memory.read_writeRange_zero_lt (m : Memory) {bs : List Byte} {k : Nat} (h : k < bs.length) :
    (m.writeRange 0 bs).read k = some bs[k] := by
  simp [Memory.read_writeRange, h]

theorem Memory.read_writeRange_zero_ge (m : Memory) {bs : List Byte} {k : Nat} (h : bs.length ≤ k) :
    (m.writeRange 0 bs).read k = m.read k := by
  simp [Memory.read_writeRange, Nat.not_lt.2 h]

/-- A success that stores `bs` as its result stores to no OUT byte beyond `bs`, and none of those has a value. -/
theorem State.storeResult_beyond {bs : List Byte} {s : State} {h l c o f r : Bool} {k : Nat} (hk : bs.length ≤ k) :
    ((s.storeResult bs).succeedWith h l c o f r).outBuf.read k = s.outBuf.read k ∧
      ((s.storeResult bs).succeedWith h l c o f r).outByte k = none := by
  have hlen : (BitVec.ofNat 32 bs.length).toNat ≤ k := (Nat.mod_le _ _).trans hk
  exact ⟨s.outBuf.read_writeRange_zero_ge hk, State.outByte_of_outLen_le rfl hlen⟩

/-! ### The two operations (R80, R82) -/

theorem exec_frmEnc (s : State) : exec .frmEnc s = execFrmEnc s := rfl

theorem exec_frmDec (s : State) : exec .frmDec s = execFrmDec s := rfl

/-- The frame FRM.ENC stores is the request frame of R62. -/
theorem encodeFrame_eq_requestFrame (cmd : List Byte) : encodeFrame cmd = requestFrame cmd := rfl

theorem requestFrame_length (cmd : List Byte) : (requestFrame cmd).length = cmd.length + 7 :=
  encodeFrame_length cmd

theorem State.inHolds.read_eq {s : State} {bs : List Byte} (h : s.inHolds bs) {k : Nat} {b : Byte} (hk : bs[k]? = some b) :
    s.inBuf.read k = some b := by
  obtain ⟨hlt, rfl⟩ := List.getElem?_eq_some_iff.1 hk
  exact h k hlt

/-- The frame whose fields lie in IN from address 0 up, with the layout of R64. -/
theorem State.inHolds.frameAt_eq {s : State} {g0 g1 g2 l1 l0 c1 c0 : Byte} {payload : List Byte}
    (h : s.inHolds (g0 :: g1 :: g2 :: l1 :: l0 :: (payload ++ [c1, c0]))) :
    s.inBuf.frameAt payload.length =
      some { header := u24 g0 g1 g2, length := be16 l1 l0, payload := payload, check := be16 c1 c0 } := by
  refine (Memory.frameAt_eq_some _ _ _).2 ⟨?header, ?length, ?payload, ?check⟩
  case header => exact (Memory.readU24_eq_some _ _ _).2 ⟨g0, g1, g2, h.read_eq rfl, h.read_eq rfl, h.read_eq rfl, rfl⟩
  case length => exact (Memory.readBE16_eq_some _ _ _).2 ⟨l1, l0, h.read_eq rfl, h.read_eq rfl, rfl⟩
  case payload =>
    refine (Memory.readRange_eq_some _ _ _ _).2 ⟨rfl, fun k hk => h.read_eq ?_⟩
    have hpayload : (payload ++ [c1, c0])[k]? = some payload[k] := by
      rw [List.getElem?_append_left hk, List.getElem?_eq_getElem hk]
    simp [Nat.add_comm 5 k, hpayload]
  case check =>
    refine (Memory.readBE16_eq_some _ _ _).2 ⟨c1, c0, h.read_eq ?_, h.read_eq ?_, rfl⟩
    · simp [Nat.add_comm 5]
    · simp [Nat.add_comm 5, Nat.add_right_comm _ 5 1]

end Sys2Proof.Machine

namespace Sys2Proof.Proofs

open Sys2Proof.Machine

/-- Settles O16: the three clauses are the three branches of FRM.ENC, and the frame it stores is R62's. -/
theorem frmEncResult : Obligations.FrmEncResult := by
  refine ⟨rfl, by decide, Config.minCap_le_outCap,
    fun s => ⟨fun hlen => ?_, fun hlen hmissing => ?_, fun cmd hcmd hlen => ?_⟩⟩
  · exact endsInError_errorCleared rfl ((exec_frmEnc s).trans (execFrmEnc_lenRange hlen))
  · have hnone : s.operand = none := s.operand_eq_none.2 hmissing
    exact readsNoValue_of_modelFault ((exec_frmEnc s).trans (execFrmEnc_noValue hlen hnone))
  · have hdone := (exec_frmEnc s).trans (execFrmEnc_done hlen hcmd)
    rw [encodeFrame_eq_requestFrame] at hdone
    refine ⟨_, hdone, fun k hk => s.outBuf.read_writeRange_zero_lt hk, fun k hk => ?_, ?_⟩
    · rw [← requestFrame_length] at hk
      exact State.storeResult_beyond hk
    · rw [← requestFrame_length]
      rfl

/-- Settles O19: the six clauses are the branches of FRM.DEC: the bounds of N, the length field missing or in disagreement with
N, and the frame, which is NOVALUE when a byte of it is missing and has the operand's fields when it is whole. -/
theorem frmDecResult : Obligations.FrmDecResult := by
  refine ⟨rfl, by decide, by decide, fun s => ⟨fun hlen => ?_, fun hshort => ?_, fun h7 hlen hmissing => ?_,
    fun x y h7 hlen hx hy hne => ?_, fun x y h7 hx hy heq hmissing => ?_,
    fun g0 g1 g2 l1 l0 payload c1 c0 hraw hfield => ?_⟩⟩
  · exact endsInError_errorCleared rfl ((exec_frmDec s).trans (execFrmDec_lenRange hlen))
  · exact endsInError_errorCleared rfl ((exec_frmDec s).trans (execFrmDec_short hshort))
  · have hfield : s.inBuf.readBE16 3 = none := (Memory.readBE16_eq_none _ 3).2 hmissing
    exact readsNoValue_of_modelFault ((exec_frmDec s).trans (execFrmDec_noLength hlen h7 hfield))
  · have hfield : s.inBuf.readBE16 3 = some (be16 x y) := (Memory.readBE16_eq_some _ 3 _).2 ⟨x, y, hx, hy, rfl⟩
    exact endsInError_errorCleared rfl ((exec_frmDec s).trans (execFrmDec_mismatch hlen h7 hfield hne))
  · have hfield : s.inBuf.readBE16 3 = some (be16 x y) := (Memory.readBE16_eq_some _ 3 _).2 ⟨x, y, hx, hy, rfl⟩
    have hN : opLen s = (be16 x y).toNat + 7 := by omega
    have hframe : s.inBuf.frameAt (be16 x y).toNat = none := Memory.frameAt_eq_none (hN ▸ hmissing)
    exact readsNoValue_of_modelFault ((exec_frmDec s).trans (execFrmDec_noValue hN hfield hframe))
  · obtain ⟨hN, hholds⟩ := hraw
    have hframe := hholds.frameAt_eq
    rw [← hfield] at hframe
    have hlen : s.latchedLen.toNat = (be16 l1 l0).toNat + 7 := by simp [hN, hfield]
    have hdone := (exec_frmDec s).trans
      (execFrmDec_done (f := { header := u24 g0 g1 g2, length := be16 l1 l0, payload, check := be16 c1 c0 }) hlen hframe)
    exact ⟨_, hdone, fun k hk => s.outBuf.read_writeRange_zero_lt hk, fun k hk => State.storeResult_beyond hk, rfl⟩

end Sys2Proof.Proofs
end

section
/-! The record parser family (42_record_parser.md): RSP.DEC on every operand, and the Reading. -/

open Sys2Proof.Claims

namespace Sys2Proof.Machine

/-! ### RSP.DEC (R85) and the corner values of its checksum -/

theorem exec_rspDec (s : State) : exec .rspDec s = execRspDec s := rfl

/-- The checksum of zero bytes, however many, is 0 (R74). -/
theorem checksum_replicate_zero (n : Nat) : checksum (List.replicate n 0) = 0 := by
  induction n with
  | zero => rfl
  | succ n ih =>
    have hstep : crcStep 0 0 = 0 := by decide
    rw [List.replicate_succ', checksum_concat, ih, hstep]

/-- The checksum of the payload in R85's example, whose weight is 1234. -/
theorem checksum_weightPayload : checksum [0xA0, 0xD2, 0x04, 0x00, 0x00, 0x01, 0x01] = 0xB2CE := by
  decide +kernel

/-- The record whose fields lie in IN from address 5 up, with the layout of R65. -/
theorem State.inHolds.recordAt_eq {s : State} {g0 g1 g2 l1 l0 echo w0 w1 w2 w3 dv st : Byte} {rest : List Byte}
    (h : s.inHolds (g0 :: g1 :: g2 :: l1 :: l0 :: echo :: w0 :: w1 :: w2 :: w3 :: dv :: st :: rest)) :
    s.inBuf.recordAt = some { echo, weight := le32 w0 w1 w2 w3, division := dv, stable := st } := by
  have hweight : s.inBuf.readLE32 6 = some (le32 w0 w1 w2 w3) :=
    (Memory.readLE32_eq_some _ _ _).2
      ⟨w0, w1, w2, w3, h.read_eq rfl, h.read_eq rfl, h.read_eq rfl, h.read_eq rfl, rfl⟩
  exact (Memory.recordAt_eq_some _ _).2 ⟨h.read_eq rfl, hweight, h.read_eq rfl, h.read_eq rfl⟩

/-! ### The Reading and the registers it is read from (R87) -/

/-- While R_VALID = 0 no Reading exists. -/
theorem State.reading_of_invalid {s : State} (h : s.status.rValid = false) : s.reading = none := by
  simp [State.reading, h]

/-- While R_VALID = 1 the Reading is made of the three cells, two of them signed. -/
theorem State.reading_of_cells {s : State} {w : Word} {d f : Byte} (h : s.status.rValid = true)
    (hw : s.rWeight = some w) (hd : s.rDiv = some d) (hf : s.rStable = some f) :
    s.reading = some { weightValue := w.toInt, divisionValue := d.toInt, stable := f } := by
  simp [State.reading, h, hw, hd, hf]

/-- While R_VALID = 1 the three registers read as their cells, and the Reading is the read-out of the same cells. -/
theorem State.readOut_of_cells {s : State} {w : Word} {d f : Byte} (h : s.status.rValid = true)
    (hw : s.rWeight = some w) (hd : s.rDiv = some d) (hf : s.rStable = some f) :
    s.regValue .rWeight = some w ∧ s.regValue .rDiv = some (d.setWidth 32) ∧ s.regValue .rStable = some (f.setWidth 32) ∧
      s.reading = some { weightValue := w.toInt, divisionValue := d.toInt, stable := f } := by
  refine ⟨?weight, ?division, ?stable, State.reading_of_cells h hw hd hf⟩
  case weight => simp [State.regValue, h, hw]
  case division => simp [State.regValue, h, hd]
  case stable => simp [State.regValue, h, hf]

/-- While R_VALID = 0 the registers of a record hold NOVALUE (R24, R38). -/
theorem State.regValue_of_rInvalid {s : State} (h : s.status.rValid = false) {r : Reg}
    (hr : r ∈ [Reg.rWeight, .rDiv, .rStable]) : s.regValue r = none := by
  obtain rfl | rfl | rfl : r = .rWeight ∨ r = .rDiv ∨ r = .rStable := by simpa using hr
  all_goals simp [State.regValue, h]

/-- Reading a register that holds NOVALUE is model fault NoValueRead (R38, R97). -/
theorem State.hostAccess_readReg_noValue {s : State} {r : Reg} (h : s.regValue r = none) :
    Fault.noValueRead ∈ (s.hostAccess (.readReg r.offset 32)).faults := by
  have hreads : (Access.readReg r.offset 32).readsNoValue s = true := by simp [Access.readsNoValue, h]
  exact (State.mem_hostAccess_faults _ s _).2 (.inr ((Access.noValueRead_mem _ s).2 hreads))

/-- The low byte of a register that a byte cell is read through is the cell's byte (R17). -/
theorem extractLsb'_setWidth_byte (b : Byte) : (b.setWidth 32).extractLsb' 0 8 = b := by
  rw [BitVec.extractLsb'_setWidth_of_le (by decide), BitVec.extractLsb'_eq_self]

end Sys2Proof.Machine

namespace Sys2Proof.Proofs

open Sys2Proof.Machine

/-- Settles O20: the four clauses are the branches of RSP.DEC. A byte the operand lacks is one the frame lacks, and 14 whole bytes
are read both as the frame of R64 and as the record of R65 inside it. -/
theorem rspDecResult : Obligations.RspDecResult := by
  refine ⟨rfl, by decide, by decide, by decide, by decide, by decide, checksum_replicate_zero 7, checksum_weightPayload,
    fun s => ⟨fun hlen => ?_, fun hlen hsize => ?_, fun hsize hmissing => ?_,
      fun g0 g1 g2 l1 l0 echo w0 w1 w2 w3 dv st c1 c0 hraw => ?_⟩⟩
  · exact endsInError_errorCleared rfl ((exec_rspDec s).trans (execRspDec_lenRange hlen))
  · exact endsInError_errorCleared rfl ((exec_rspDec s).trans (execRspDec_wrongSize hlen hsize))
  · rw [operandMissing, hsize] at hmissing
    have hframe : s.inBuf.frameAt 7 = none := Memory.frameAt_eq_none hmissing
    exact readsNoValue_of_modelFault ((exec_rspDec s).trans (execRspDec_noValue hsize (.inl hframe)))
  · obtain ⟨hN, hholds⟩ := hraw
    have hframe := hholds.frameAt_eq (payload := [echo, w0, w1, w2, w3, dv, st])
    exact ⟨_, (exec_rspDec s).trans (execRspDec_done hN hframe hholds.recordAt_eq), rfl⟩

/-- Settles O24: the registers and the Reading are functions of R_VALID and the three cells, and the invariant says that with
R_VALID = 1 the cells hold values. -/
theorem readingIsTheReadOut : Obligations.ReadingIsTheReadOut := by
  refine ⟨fun s h => ⟨State.reading_of_invalid h, fun r hr => ?_⟩, fun s hinv h => ?_, fun s w d f => State.readOut_of_cells⟩
  · have hnone := State.regValue_of_rInvalid h hr
    exact ⟨hnone, State.hostAccess_readReg_noValue hnone⟩
  · obtain ⟨-, hweight, hdiv, hstable⟩ := hinv.results.recordHeld h
    obtain ⟨w, hw⟩ := Option.isSome_iff_exists.1 hweight
    obtain ⟨d, hd⟩ := Option.isSome_iff_exists.1 hdiv
    obtain ⟨f, hf⟩ := Option.isSome_iff_exists.1 hstable
    obtain ⟨hrw, hrd, hrf, hreading⟩ := State.readOut_of_cells h hw hd hf
    refine ⟨w, _, _, hrw, hrd, hrf, ?_⟩
    rw [extractLsb'_setWidth_byte, extractLsb'_setWidth_byte, hreading]

end Sys2Proof.Proofs
end

section
/-! The exceptions family (60_exceptions.md): what an error leaves, when an operation meets NOVALUE, and what the reasons of an
access say about it. -/

open Sys2Proof.Claims

namespace Sys2Proof.Machine

/-! ### Error completions (R90, R92) -/

/-- The word of an operation is none of those R59 lists. -/
theorem not_illegalWord_encode (i : Instr) : ¬ illegalWord (encode i) := by
  intro h
  obtain ⟨r, hr⟩ := (decode_eq_error_iff _).2 h
  cases (decode_encode i).symm.trans hr

theorem decode_of_not_illegalWord {w : Word} (h : ¬ illegalWord w) : ∃ i, decode w = .ok i := by
  cases hw : decode w with
  | ok i => exact ⟨i, rfl⟩
  | error r => exact absurd ((decode_eq_error_iff w).1 ⟨r, hw⟩) h

theorem encode_injective : Function.Injective encode :=
  fun i j h => Except.ok.inj ((decode_encode i).symm.trans (h ▸ decode_encode j))

/-- The operations whose errors clear the valid bits are the three frame operations (R92). -/
theorem clearsValidOnError_iff (i : Instr) :
    clearsValidOnError i = true ↔ encode i = encode .frmEnc ∨ encode i = encode .frmDec ∨ encode i = encode .rspDec := by
  simp only [encode_injective.eq_iff]
  cases i <;> simp [clearsValidOnError]

theorem CodecError.code_named (e : CodecError) : e.code = 1 ∨ e.code = 2 ∨ e.code = 3 := by
  cases e <;> decide

theorem CodecError.code_eq_two {e : CodecError} : e.code = 2 ↔ e = .illegalOp := by
  cases e <;> decide

/-- A step that completes in an error raised IllegalOp for a word R59 lists, or another error in the operation of the word. -/
theorem State.codecAbout.step_error {s t : State} (h : s.codecAbout) (hstep : step s = .next t) (ht : t.clean)
    (herr : t.status.err = true) :
    (illegalWord s.pend ∧ t = s.takeTurn.raise .illegalOp none) ∨
      ∃ i e, s.pend = encode i ∧ e ≠ .illegalOp ∧ t = s.takeTurn.raise e (some i) := by
  by_cases hw : illegalWord s.pend
  · cases (h.step_illegal hw).symm.trans hstep
    exact .inl ⟨hw, rfl⟩
  · obtain ⟨i, hi⟩ := decode_of_not_illegalWord hw
    obtain ⟨e, he, rfl⟩ | rfl | hs := exec_next_cases ((h.step_of_decode hi).symm.trans hstep)
    · exact .inr ⟨i, e, decode_eq_ok_iff.1 hi, he, rfl⟩
    · exact absurd ht (State.modelFault_not_clean _ _)
    · obtain ⟨-, -, hnoerr, -⟩ := hs.completed
      rw [hnoerr] at herr
      cases herr

/-- An error completion that clears the valid bits changes STATUS alone, but for the internal state. -/
theorem State.raise_agrees_errorCleared {e : CodecError} {i : Option Instr} (h : clearsValid e i = true) (s : State) :
    agrees (s.raise e i) { s with status := errorCleared e.code } := by
  rw [State.raise, Status.failed_eq_errorCleared h]
  rfl

/-- With all valid bits 0 every guarded register holds NOVALUE (R24). -/
theorem State.regValue_of_invalid {s : State} (ho : s.status.oValid = false) (hf : s.status.fValid = false)
    (hr : s.status.rValid = false) {r : Reg}
    (hmem : r ∈ [Reg.outLen, .fHdr, .fLen, .fCrc, .rEcho, .rWeight, .rDiv, .rStable]) : s.regValue r = none := by
  cases r with
  | ctrl | status | inLen | crcAcc | hdrConst => exact absurd hmem (by decide)
  | outLen => simp [State.regValue, ho]
  | fHdr | fLen | fCrc => simp [State.regValue, hf]
  | rEcho | rWeight | rDiv | rStable => simp [State.regValue, hr]

/-! ### The order of the checks (R93) -/

/-- Each operation with a buffer operand checks N against IN_CAP first. -/
theorem exec_lenRange {i : Instr} (hi : i = .crcBuf ∨ i = .frmEnc ∨ i = .frmDec ∨ i = .rspDec) {s : State}
    (h : Config.inCap < opLen s) : exec i s = .next (s.raise .lenRange (some i)) := by
  obtain rfl | rfl | rfl | rfl := hi
  · exact execCrcBuf_lenRange h
  · exact execFrmEnc_lenRange (.inl h)
  · exact execFrmDec_lenRange h
  · exact execRspDec_lenRange h

/-- An access the busy window forbids changes FAULTS alone (R107). -/
theorem State.hostAccess_forbidden {x : Access} {s : State} (hb : s.status.busy = true) (hx : x.allowedWhileBusy = false) :
    s.hostAccess x = { s with faults := (x.reasons s).foldl addFault s.faults } :=
  State.hostAccess_faults (List.ne_nil_of_mem ((Access.hostHazard_mem x s).2 ⟨hb, hx⟩))

/-! ### When an operation meets NOVALUE (R38, R93) -/

/-- An operand of which no byte is missing is a list of bytes. -/
theorem operandIs_of_not_missing {s : State} (h : ¬ operandMissing s) : ∃ bs, s.operandIs bs := by
  cases ho : s.operand with
  | none => exact absurd (s.operand_eq_none.1 ho) h
  | some bs => exact ⟨bs, (s.operand_eq_some bs).1 ho⟩

/-- Of an operand that is whole, each byte below N has been written. -/
theorem read_of_not_missing {s : State} (h : ¬ operandMissing s) {k : Nat} (hk : k < opLen s) :
    ∃ b, s.inBuf.read k = some b :=
  Option.ne_none_iff_exists'.1 fun hnone => h ⟨k, hk, hnone⟩

/-- A whole operand with the bytes of a frame reads as a frame. -/
theorem frameAt_of_not_missing {s : State} (h : ¬ operandMissing s) {n : Nat} (hn : opLen s = n + 7) :
    ∃ f, s.inBuf.frameAt n = some f :=
  Option.isSome_iff_exists.1 (s.inBuf.frameAt_isSome n fun _ hk =>
    Option.isSome_iff_exists.2 (read_of_not_missing h (by omega)))

/-- A whole operand with the bytes of a weight response reads as a record. -/
theorem recordAt_of_not_missing {s : State} (h : ¬ operandMissing s) (hn : opLen s = 14) :
    ∃ r, s.inBuf.recordAt = some r := by
  have hread : ∀ k < 14, ∃ b, s.inBuf.read k = some b := fun k hk => read_of_not_missing h (hn ▸ hk)
  obtain ⟨echo, hecho⟩ := hread 5 (by decide)
  obtain ⟨w0, hw0⟩ := hread 6 (by decide)
  obtain ⟨w1, hw1⟩ := hread 7 (by decide)
  obtain ⟨w2, hw2⟩ := hread 8 (by decide)
  obtain ⟨w3, hw3⟩ := hread 9 (by decide)
  obtain ⟨division, hdivision⟩ := hread 10 (by decide)
  obtain ⟨stable, hstable⟩ := hread 11 (by decide)
  exact ⟨{ echo, weight := le32 w0 w1 w2 w3, division, stable }, (Memory.recordAt_eq_some _ _).2
    ⟨hecho, (Memory.readLE32_eq_some _ _ _).2 ⟨w0, w1, w2, w3, hw0, hw1, hw2, hw3, rfl⟩, hdivision, hstable⟩⟩

/-- An operation that meets NOVALUE is model fault NoValueRead. -/
theorem exec_of_meetsNoValue {i : Instr} {s : State} (h : meetsNoValue s i) : exec i s = .next (s.modelFault .noValueRead) := by
  cases i with
  | crcInit => exact absurd h id
  | crcByte b => exact absurd h id
  | crcBuf =>
    obtain ⟨hlen, hmissing⟩ := h
    exact execCrcBuf_noValue hlen (s.operand_eq_none.2 hmissing)
  | frmEnc =>
    obtain ⟨hlen, hmissing⟩ := h
    exact execFrmEnc_noValue hlen (s.operand_eq_none.2 hmissing)
  | frmDec =>
    obtain ⟨h7, hlen, hmissing, hfield⟩ := h
    cases hl : s.inBuf.readBE16 3 with
    | none => exact execFrmDec_noLength hlen h7 hl
    | some len =>
      obtain ⟨x, y, hx, hy, rfl⟩ := (Memory.readBE16_eq_some _ _ _).1 hl
      have hN : opLen s = (be16 x y).toNat + 7 := by rw [hfield x y hx hy, Nat.sub_add_cancel h7]
      exact execFrmDec_noValue hN hl (Memory.frameAt_eq_none (hN ▸ hmissing))
  | rspDec =>
    obtain ⟨hN, hmissing⟩ := h
    rw [operandMissing, hN] at hmissing
    exact execRspDec_noValue hN (.inl (Memory.frameAt_eq_none hmissing))

/-- Only an operation that meets NOVALUE adds to FAULTS: where a check fails or no byte is missing, it ends in an error or
succeeds, and both leave FAULTS. -/
theorem meetsNoValue_of_exec {i : Instr} {s t : State} (h : exec i s = .next t) (ht : t.faults ≠ s.faults) :
    meetsNoValue s i := by
  have hkeep : ∀ u, exec i s = .next u → u.faults ≠ s.faults := fun u hu => by
    cases h.symm.trans hu
    exact ht
  cases i with
  | crcInit => exact hkeep _ (exec_crcInit s) rfl
  | crcByte b => exact hkeep _ (exec_crcByte b s) rfl
  | crcBuf =>
    have hlen : opLen s ≤ Config.inCap := Nat.not_lt.1 fun hlen => hkeep _ (execCrcBuf_lenRange hlen) rfl
    refine ⟨hlen, not_not.1 fun hwhole => ?_⟩
    obtain ⟨bs, hbs⟩ := operandIs_of_not_missing hwhole
    exact hkeep _ (execCrcBuf_done hlen hbs) rfl
  | frmEnc =>
    have hlen : opLen s ≤ 65535 := Nat.not_lt.1 fun hlen => hkeep _ (execFrmEnc_lenRange (.inr hlen)) rfl
    refine ⟨hlen, not_not.1 fun hwhole => ?_⟩
    obtain ⟨cmd, hcmd⟩ := operandIs_of_not_missing hwhole
    exact hkeep _ (execFrmEnc_done (hcmd.latchedLen_eq.symm.trans_le hlen) hcmd) rfl
  | frmDec =>
    have hlen : opLen s ≤ Config.inCap := Nat.not_lt.1 fun hlen => hkeep _ (execFrmDec_lenRange hlen) rfl
    have h7 : 7 ≤ opLen s := Nat.not_lt.1 fun hshort => hkeep _ (execFrmDec_short hshort) rfl
    have hfield : ∀ len, s.inBuf.readBE16 3 = some len → len.toNat = opLen s - 7 :=
      fun len hl => not_not.1 fun hne => hkeep _ (execFrmDec_mismatch hlen h7 hl hne) rfl
    refine ⟨h7, hlen, not_not.1 fun hwhole => ?_,
      fun x y hx hy => hfield _ ((Memory.readBE16_eq_some _ _ _).2 ⟨x, y, hx, hy, rfl⟩)⟩
    obtain ⟨f, hf⟩ := frameAt_of_not_missing hwhole (n := opLen s - 7) (by omega)
    obtain ⟨-, hl, -, -⟩ := (Memory.frameAt_eq_some _ _ _).1 hf
    have hN : f.length.toNat = opLen s - 7 := hfield _ hl
    rw [← hN] at hf
    exact hkeep _ (execFrmDec_done (hN ▸ (Nat.sub_add_cancel h7).symm) hf) rfl
  | rspDec =>
    have hlen : opLen s ≤ Config.inCap := Nat.not_lt.1 fun hlen => hkeep _ (execRspDec_lenRange hlen) rfl
    have hN : opLen s = 14 := not_not.1 fun hsize => hkeep _ (execRspDec_wrongSize hlen hsize) rfl
    refine ⟨hN, not_not.1 fun hwhole => ?_⟩
    obtain ⟨f, hf⟩ := frameAt_of_not_missing hwhole hN
    obtain ⟨r, hr⟩ := recordAt_of_not_missing hwhole hN
    exact hkeep _ (execRspDec_done hN hf hr) rfl

/-- In a clean state an operation leaves FAULTS empty, or meets NOVALUE and leaves NoValueRead alone. -/
theorem exec_faults_of_clean {i : Instr} {s t : State} (hs : s.clean) (h : exec i s = .next t) :
    (meetsNoValue s i ∧ t.faults = [.noValueRead]) ∨ (¬ meetsNoValue s i ∧ t.faults = []) := by
  by_cases hm : meetsNoValue s i
  · cases (exec_of_meetsNoValue hm).symm.trans h
    rw [State.modelFault_faults, hs]
    exact .inl ⟨hm, rfl⟩
  · have hkeep : t.faults = s.faults := not_not.1 fun ht => hm (meetsNoValue_of_exec h ht)
    exact .inr ⟨hm, hkeep.trans hs⟩

/-! ### The rules an access breaks, in the terms of the claims (R97) -/

theorem Access.addressExists_eq_false {x : Access} : x.addressExists = false ↔ namesNoCell x := by
  have hreg : ∀ o w, (Reg.at o w).isSome = false ↔ w ≠ 32 ∨ ∀ r, (o, r) ∉ registerTable := fun o w => by
    rw [← Bool.not_eq_true, Option.isSome_iff_exists]
    simp only [Reg.at_eq_some_iff, exists_and_left, not_and_or, not_exists]
  cases x with
  | readReg o w | writeReg o w _ => exact hreg o w
  | readIn a w | writeIn a w _ =>
    rw [← Bool.not_eq_true, Access.addressExists, Access.inCell_exists, not_and_or, Nat.not_lt]
    rfl
  | readOut a w | writeOut a w _ =>
    rw [← Bool.not_eq_true, Access.addressExists, Access.outCell_exists, not_and_or, Nat.not_lt]
    rfl

theorem Reg.readableWhileBusy_iff (r : Reg) : r.readableWhileBusy = true ↔ r.offset ∈ [0x00, 0x04, 0x08, 0x14] := by
  cases r <;> decide

/-- The busy window of the model is R107's, and the read of log entry 12. -/
theorem Access.allowedWhileBusy_iff {x : Access} : x.allowedWhileBusy = true ↔ busyAllows x ∨ readsBeyondIn x := by
  constructor
  · intro h
    cases x with
    | readReg o w =>
      obtain ⟨r, hr, hread⟩ := (Option.any_eq_true _ _).1 h
      obtain ⟨rfl, rfl⟩ := Reg.at_eq_some hr
      exact .inl (.inl ⟨_, r.readableWhileBusy_iff.1 hread, rfl⟩)
    | readIn a w =>
      obtain rfl : w = 8 := beq_iff_eq.1 h
      obtain ha | ha := Nat.lt_or_ge a Config.inCap
      · exact .inl (.inr ⟨a, ha, rfl⟩)
      · exact .inr ⟨a, ha, rfl⟩
    | writeReg | writeIn | readOut | writeOut => cases h
  · rintro ((⟨o, ho, rfl⟩ | ⟨a, -, rfl⟩) | ⟨a, -, rfl⟩)
    · revert o
      decide
    · rfl
    · rfl

theorem Access.readsNoValue_iff {x : Access} {s : State} : x.readsNoValue s = true ↔ readsEmptyCell s x := by
  cases x with
  | readReg o w =>
    simp [Access.readsNoValue, readsEmptyCell, Option.any_eq_true, Reg.at_eq_some_iff, and_assoc]
  | readIn a w =>
    rw [Access.readsNoValue, Bool.and_eq_true, Access.inCell_exists, Option.isNone_iff_eq_none, and_assoc]
    rfl
  | readOut a w =>
    rw [Access.readsNoValue, Bool.and_eq_true, Access.outCell_exists, Option.isNone_iff_eq_none, and_assoc]
    rfl
  | writeReg | writeIn | writeOut => simp [Access.readsNoValue, readsEmptyCell]

/-- A cell that is empty exists. -/
theorem not_namesNoCell_of_readsEmptyCell {x : Access} {s : State} (h : readsEmptyCell s x) : ¬ namesNoCell x := by
  cases x with
  | readReg o w =>
    obtain ⟨hw, r, hr, -⟩ := h
    exact not_or.2 ⟨not_not.2 hw, fun hnone => hnone r hr⟩
  | readIn a w | readOut a w =>
    obtain ⟨hw, ha, -⟩ := h
    exact not_or.2 ⟨not_not.2 hw, Nat.not_le.2 ha⟩
  | writeReg | writeIn | writeOut => exact absurd h id

/-- A read of IN_BUF at or beyond IN_CAP names no cell (R42). -/
theorem namesNoCell_of_readsBeyondIn {x : Access} (h : readsBeyondIn x) : namesNoCell x := by
  obtain ⟨a, ha, rfl⟩ := h
  exact .inr ha

/-! ### FAULTS after an access (R39, R97) -/

theorem State.hostAccess_faults_nodup (x : Access) {s : State} (h : s.faults.Nodup) : (s.hostAccess x).faults.Nodup := by
  by_cases hr : x.reasons s = []
  · rw [State.hostAccess_allowed hr, Access.perform_faults]
    exact h
  · rw [State.hostAccess_faults hr]
    exact nodup_foldl_addFault h

/-- What an access adds to an empty FAULTS is the reasons it raises. -/
theorem State.clean.mem_hostAccess_faults {s : State} (h : s.clean) {x : Access} {q : Fault} :
    q ∈ (s.hostAccess x).faults ↔ q ∈ x.reasons s := by
  have hnone : q ∉ s.faults := h ▸ List.not_mem_nil
  rw [State.mem_hostAccess_faults, or_iff_right hnone]

theorem State.clean.badAddress_mem_iff {s : State} (h : s.clean) (x : Access) :
    Fault.badAddress ∈ (s.hostAccess x).faults ↔ namesNoCell x := by
  rw [h.mem_hostAccess_faults, Access.badAddress_mem, Access.addressExists_eq_false]

/-- The busy window adds HostHazard exactly when R107 forbids the access, the read of log entry 12 apart. -/
theorem State.clean.hostHazard_mem_iff {s : State} (h : s.clean) (x : Access) :
    Fault.hostHazard ∈ (s.hostAccess x).faults ↔ breaksBusyWindow s x ∧ ¬ readsBeyondIn x := by
  rw [h.mem_hostAccess_faults, Access.hostHazard_mem, ← Bool.not_eq_true x.allowedWhileBusy, Access.allowedWhileBusy_iff,
    not_or, ← and_assoc]
  rfl

theorem State.clean.noValueRead_mem_iff {s : State} (h : s.clean) (x : Access) :
    Fault.noValueRead ∈ (s.hostAccess x).faults ↔ readsEmptyCell s x := by
  rw [h.mem_hostAccess_faults, Access.noValueRead_mem, Access.readsNoValue_iff]

/-- FAULTS holds no reason twice, so after an access that raises one reason it is that reason alone. -/
theorem State.clean.hostAccess_faults_eq_singleton {s : State} (h : s.clean) {x : Access} {q : Fault}
    (hq : ∀ p, p ∈ (s.hostAccess x).faults ↔ p = q) : (s.hostAccess x).faults = [q] := by
  have hnodup : (s.hostAccess x).faults.Nodup := State.hostAccess_faults_nodup x (h ▸ List.nodup_nil)
  refine List.perm_singleton.1 ((List.perm_ext_iff_of_nodup hnodup (List.nodup_singleton q)).2 fun p => ?_)
  rw [hq, List.mem_singleton]

/-- A recorded reason stops the model (R97). -/
theorem step_of_faults {s : State} {q : Fault} {qs : List Fault} (h : s.faults = q :: qs) : step s = .fault q := by
  rw [step, h]

end Sys2Proof.Machine

namespace Sys2Proof.Proofs

open Sys2Proof.Machine

/-- Settles O28: an erroring step is `State.raise` after the turn, with IllegalOp exactly for a word R59 lists, and `clearsValid`
says whether it clears the valid bits. -/
theorem errorsArePrecise : Obligations.ErrorsArePrecise := by
  intro s t h hstep ht herr
  obtain ⟨hw, rfl⟩ | ⟨i, e, hpend, he, rfl⟩ := h.step_error hstep ht herr
  · refine ⟨.inr (.inl rfl), iff_of_true rfl hw, fun hframe => ?_, fun _ _ _ => s.takeTurn.raise_illegalOp_agrees⟩
    obtain hp | hp | hp := hframe
    all_goals exact absurd (hp ▸ hw) (not_illegalWord_encode _)
  · rw [hpend]
    have hclears : clearsValid e (some i) = clearsValidOnError i := clearsValid_some he i
    refine ⟨e.code_named, iff_of_false (fun hcode => he (CodecError.code_eq_two.1 hcode)) (not_illegalWord_encode i),
      fun hframe => ?_, fun henc hdec hrsp => ?_⟩
    · have hclear : clearsValid e (some i) = true := hclears.trans ((clearsValidOnError_iff i).2 hframe)
      exact ⟨s.takeTurn.raise_agrees_errorCleared hclear, State.outByte_of_invalid (by simp [hclear]),
        fun r hr => State.regValue_of_invalid (by simp [hclear]) (by simp [hclear]) (by simp [hclear]) hr⟩
    · have hkeep : clearsValidOnError i = false := Bool.eq_false_iff.2 fun hframe => by
        obtain hi | hi | hi := (clearsValidOnError_iff i).1 hframe
        · exact henc hi
        · exact hdec hi
        · exact hrsp hi
      exact s.takeTurn.raise_agrees_errorKept (hclears.trans hkeep)

/-- Settles O29: each check that fails ends in its error by the laws of the operations, and by `exec_faults_of_clean` only an
operation that meets NOVALUE after its checks adds to FAULTS. -/
theorem checkOrder : Obligations.CheckOrder := by
  refine ⟨fun s hw => ?_, fun s w hb => ?_, fun s i hi hlen => ?_, fun s hlen => ?_, fun s hshort => ?_,
    fun s x y h7 hlen hx hy hne => ?_, fun s hlen hsize => ?_, fun s t i hs h ht => ?_⟩
  · exact ⟨_, State.codecComplete_illegal hw, rfl, rfl, rfl⟩
  · rw [State.hostAccess_forbidden hb rfl]
  · exact ⟨_, exec_lenRange hi hlen, rfl, rfl, rfl⟩
  · exact ⟨_, (exec_frmEnc s).trans (execFrmEnc_lenRange (.inr hlen)), rfl, rfl, rfl⟩
  · exact ⟨_, (exec_frmDec s).trans (execFrmDec_short hshort), rfl, rfl, rfl⟩
  · have hfield : s.inBuf.readBE16 3 = some (be16 x y) := (Memory.readBE16_eq_some _ 3 _).2 ⟨x, y, hx, hy, rfl⟩
    exact ⟨_, (exec_frmDec s).trans (execFrmDec_mismatch hlen h7 hfield hne), rfl, rfl, rfl⟩
  · exact ⟨_, (exec_rspDec s).trans (execRspDec_wrongSize hlen hsize), rfl, rfl, rfl⟩
  · obtain ⟨hmeets, hfaults⟩ | ⟨-, hfaults⟩ := exec_faults_of_clean hs h
    · exact ⟨hfaults, hmeets⟩
    · exact absurd hfaults ht

/-- Settles O53: each reason is raised by its own rule, the read of log entry 12 names no cell in any case, and a cell that is
empty exists; an operation raises NoValueRead exactly when it meets NOVALUE. -/
theorem modelFaultTable : Obligations.ModelFaultTable := by
  refine ⟨fun s x hs => ?_, fun s t i hs h => ?_, fun s r hr => ?_⟩
  · have hbad := hs.badAddress_mem_iff x
    have hhazard := hs.hostHazard_mem_iff x
    have hempty := hs.noValueRead_mem_iff x
    refine ⟨hbad.1, fun h => (hhazard.1 h).1, hempty.1, fun hname hbusy => ?_, fun hbusy hname hread => ?_,
      fun hread hbusy => ?_, ?_⟩
    · have hread : ¬ readsEmptyCell s x := fun hread => not_namesNoCell_of_readsEmptyCell hread hname
      refine hs.hostAccess_faults_eq_singleton fun p => ?_
      cases p <;> simp [hbad, hhazard, hempty, hname, hbusy, hread]
    · have hin : ¬ readsBeyondIn x := fun hin => hname (namesNoCell_of_readsBeyondIn hin)
      refine hs.hostAccess_faults_eq_singleton fun p => ?_
      cases p <;> simp [hbad, hhazard, hempty, hname, hbusy, hread, hin]
    · have hname : ¬ namesNoCell x := not_namesNoCell_of_readsEmptyCell hread
      refine hs.hostAccess_faults_eq_singleton fun p => ?_
      cases p <;> simp [hbad, hhazard, hempty, hname, hbusy, hread]
    · constructor
      · rintro (hname | hbusy | hread)
        · exact List.ne_nil_of_mem (hbad.2 hname)
        · by_cases hin : readsBeyondIn x
          · exact List.ne_nil_of_mem (hbad.2 (namesNoCell_of_readsBeyondIn hin))
          · exact List.ne_nil_of_mem (hhazard.2 ⟨hbusy, hin⟩)
        · exact List.ne_nil_of_mem (hempty.2 hread)
      · intro hne
        obtain ⟨q, hq⟩ := List.exists_mem_of_ne_nil _ hne
        cases q with
        | badAddress => exact .inl (hbad.1 hq)
        | hostHazard => exact .inr (.inl (hhazard.1 hq).1)
        | noValueRead => exact .inr (.inr (hempty.1 hq))
  · obtain ⟨hmeets, hfaults⟩ | ⟨hmeets, hfaults⟩ := exec_faults_of_clean hs h
    · simp [hmeets, hfaults]
    · simp [hmeets, hfaults]
  · cases hf : s.faults with
    | nil => rw [hf] at hr; cases hr
    | cons q qs =>
      have hstop := step_of_faults hf
      exact ⟨⟨q, List.mem_cons_self, hstop⟩, fun t ht => by cases hstop.symm.trans ht⟩

end Sys2Proof.Proofs
end

section
/-! The reset and hazards family (70_reset_and_hazards.md): what RESET leaves, what the busy window allows, and what a turn of the
host leaves of the results. -/

open Sys2Proof.Claims

namespace Sys2Proof.Machine

/-! ### RESET (R103 to R105) -/

/-- The step in which the host asserts RESET, whatever is pending. -/
theorem State.hostAbout.step_reset {s : State} {rest : List HostStmt} (h : s.hostAbout .reset rest) :
    step s = .next { s.takeTurn with program := rest }.resetEvent := by
  obtain ⟨hclean, hmover, hprogram⟩ := h
  rw [step_clean hclean, State.turn_host hmover, State.hostTurn, State.takeTurn_program, hprogram]

/-! ### The busy window (R107) -/

theorem isRead_of_busyAllows {x : Access} (h : busyAllows x) : isRead x := by
  obtain ⟨o, -, rfl⟩ | ⟨a, -, rfl⟩ := h
  · trivial
  · trivial

/-- A read that leaves FAULTS empty changes the host's trace alone (R51). -/
theorem State.hostAccess_clean_read {x : Access} {s : State} (hx : isRead x) (h : (s.hostAccess x).clean) :
    s.hostAccess x = { s with trace := (s.hostAccess x).trace } := by
  obtain ⟨o, ho⟩ := State.hostAccess_read hx (State.hostAccess_clean_reasons h)
  have hread : s.hostAccess x = { s with trace := s.trace ++ [o] } := ho s.trace
  rw [hread]

/-! ### What a turn of the host leaves of the results (R109) -/

/-- A turn of the host is nothing, RESET, or one access: the access its program names, a read, or the write of IN_LEN at the end of
a COPYOUT (R69). -/
theorem State.hostTurn_access_cases (s : State) :
    s.hostTurn = s ∨
      (∃ rest, s.program = .reset :: rest ∧ s.hostTurn = { s with program := rest }.resetEvent) ∨
      (∃ x p, s.hostTurn = s.hostDoes x p ∧
        ((∃ rest, s.program = .access x :: rest) ∨ isRead x ∨
          ∃ a n w rest, s.program = .copyFrom a n :: rest ∧ x = .writeReg Reg.inLen.offset 32 w)) := by
  unfold State.hostTurn
  split
  next => exact .inl rfl
  next rest hp => exact .inr (.inr ⟨_, _, rfl, .inl ⟨rest, hp⟩⟩)
  next rest hp => exact .inr (.inl ⟨rest, hp, rfl⟩)
  next => exact .inr (.inr ⟨_, _, rfl, .inr (.inl trivial)⟩)
  next => exact .inr (.inr ⟨_, _, rfl, .inr (.inl trivial)⟩)
  next a n rest hp =>
    split
    · exact .inr (.inr ⟨_, _, rfl, .inr (.inl trivial)⟩)
    · exact .inr (.inr ⟨_, _, rfl, .inr (.inr ⟨a, n, _, rest, hp, rfl⟩)⟩)

/-- An access that is no command changes nothing of the block but IN_LEN, IN_BUF and FAULTS (R17, R42, R51). -/
theorem State.hostAccess_frame {x : Access} (hx : ∀ w, x ≠ .writeReg Reg.ctrl.offset 32 w) (s : State) :
    s.hostAccess x = { s with inLen := (s.hostAccess x).inLen, inBuf := (s.hostAccess x).inBuf,
                              faults := (s.hostAccess x).faults, program := (s.hostAccess x).program,
                              turns := (s.hostAccess x).turns, trace := (s.hostAccess x).trace } := by
  obtain ⟨fs, -, h⟩ | ⟨o, h⟩ | h | ⟨w, -, hw, -⟩ | ⟨w, -, -, h⟩ | ⟨a, v, -, -, -, h⟩ := State.hostAccess_cases x s
  · rw [h]
  · rw [h]; rfl
  · rw [h]
  · exact absurd hw (hx w)
  · rw [h]
  · rw [h]

/-- IN_LEN is written by no access but a write of IN_LEN (R25). -/
theorem State.hostAccess_inLen {x : Access} (hx : ∀ w, x ≠ .writeReg Reg.inLen.offset 32 w) (s : State) :
    (s.hostAccess x).inLen = s.inLen := by
  obtain ⟨fs, -, h⟩ | ⟨o, h⟩ | h | ⟨w, -, -, h⟩ | ⟨w, -, hw, -⟩ | ⟨a, v, -, -, -, h⟩ := State.hostAccess_cases x s
  · rw [h]
  · rw [h]; rfl
  · rw [h]
  · rw [h]; rfl
  · exact absurd hw (hx w)
  · rw [h]

end Sys2Proof.Machine

namespace Sys2Proof.Proofs

open Sys2Proof.Machine

/-- Settles O39: each cell of the reset state holds its value, and with the valid bits 0 the result registers read as NOVALUE. -/
theorem resetState : Obligations.ResetState :=
  ⟨rfl, rfl, rfl, rfl, rfl, rfl, rfl, rfl, rfl, rfl, rfl, rfl, rfl,
    fun _ hr => State.regValue_of_invalid rfl rfl rfl hr, fun a => ⟨Memory.read_nil a, Memory.read_nil a⟩, rfl⟩

/-- Settles O40: the step is `State.resetEvent` after the turn, which keeps nothing of the block but FAULTS. -/
theorem resetEvent : Obligations.ResetEvent :=
  fun _ _ h => ⟨_, h.step_reset, rfl, rfl⟩

/-- Settles O33: HostHazard is raised exactly when R107 forbids the access, the read of log entry 12 apart, and what R107 allows
are reads. -/
theorem busyWindow : Obligations.BusyWindow := by
  intro s x hs hb
  have hhazard := hs.hostHazard_mem_iff x
  refine ⟨fun hallowed hmem => ?_, fun hforbidden hin => hhazard.2 ⟨⟨hb, hforbidden⟩, hin⟩,
    fun hallowed hclean => State.hostAccess_clean_read (isRead_of_busyAllows hallowed) hclean⟩
  obtain ⟨⟨-, hforbidden⟩, -⟩ := hhazard.1 hmem
  exact hforbidden hallowed

/-- Settles O41: while BUSY = 0 the codec's turn passes, and the host's turn, RESET and the command apart, is an access that leaves
the results, and leaves IN_LEN unless it writes it. -/
theorem resultsAreStable : Obligations.ResultsAreStable := by
  intro s t hb hstep hcommand hreset
  obtain ⟨hclean, ⟨hmover, rfl⟩ | ⟨-, -, rfl⟩ | ⟨-, hbusy, -⟩⟩ := step_cases hstep
  · obtain h | ⟨rest, hp, -⟩ | ⟨x, p, h, hx⟩ := s.takeTurn.hostTurn_access_cases
    · rw [h]; exact ⟨rfl, fun _ _ => rfl⟩
    · exact absurd ⟨hclean, hmover, hp⟩ (hreset rest)
    · rw [h]
      refine ⟨State.hostAccess_frame (fun w hw => ?_) _, fun hlen hcopy => State.hostAccess_inLen (fun w hw => ?_) _⟩
      · subst hw
        obtain ⟨rest, hp⟩ | hread | ⟨a, n, v, rest, hp, hx⟩ := hx
        · exact hcommand w rest ⟨hclean, hmover, hp⟩
        · exact hread
        · cases hx
      · subst hw
        obtain ⟨rest, hp⟩ | hread | ⟨a, n, v, rest, hp, -⟩ := hx
        · exact hlen w rest ⟨hclean, hmover, hp⟩
        · exact hread
        · exact hcopy a n rest ⟨hclean, hmover, hp⟩
  · exact ⟨rfl, fun _ _ => rfl⟩
  · rw [hb] at hbusy
    cases hbusy

end Sys2Proof.Proofs
end

section
/-! The encoding, both ways (30_encoding.md section 1). -/

open Sys2Proof.Claims

namespace Sys2Proof.Proofs

open Sys2Proof.Machine

/-- Settles O4: `decode_eq_ok_iff` says that a word decodes to an operation exactly when it is that operation's word. -/
theorem encodeAndDecodeAgree : Obligations.EncodeAndDecodeAgree :=
  ⟨fun i _ => decode_encode i, fun _ _ h => encode_of_decode h, fun _ _ h => encode_injective h⟩

/-- Settles O1: seven words are encodings, and the other three break R59's bullets. -/
theorem specWordsDecode : Obligations.SpecWordsDecode :=
  ⟨decode_encode .crcInit, decode_encode (.crcByte 0x00), decode_encode (.crcByte 0xFF), decode_encode .crcBuf,
    decode_encode .frmEnc, decode_encode .frmDec, decode_encode .rspDec, by decide, by decide, by decide⟩

end Sys2Proof.Proofs
end

section
/-! Noninterference (10_state.md R37): IN_BUF and N decide how an operation ends, and no turn lets the internal state show. -/

open Sys2Proof.Claims

namespace Sys2Proof.Machine

/-! ### What decides how an operation ends (R79, R80, R82, R85) -/

/-- The state FRM.ENC leaves on a command (R80). -/
def State.encoded (cmd : List Byte) (s : State) : State :=
  { s with crcAcc := checksum cmd }.storeResult (encodeFrame cmd) |>.succeedWith false false false true false false

/-- The state FRM.DEC leaves on a frame (R82, R83). -/
def State.decoded (f : Frame) (s : State) : State :=
  (s.loadFrame f).storeResult f.payload |>.succeedWith f.headerOk true f.checksumOk true true false

/-- The state RSP.DEC leaves on a response, read as a frame and as a record (R85, R86). -/
def State.parsed (f : Frame) (r : WeightRecord) (s : State) : State :=
  (s.loadFrame f).loadRecord r |>.succeedWith f.headerOk f.responseLengthOk f.checksumOk false true true

/-- The state with the operand of `s`: its IN_BUF and its N. -/
def State.withOperandOf (s u : State) : State := { u with inBuf := s.inBuf, latchedLen := s.latchedLen }

/-- `f` completes an operation (R91, R92): it leaves FAULTS, BUSY = 0 and DONE = 1, and reads nothing of the internal state. -/
structure Completes (f : State → State) : Prop where
  faults : ∀ s, (f s).faults = s.faults
  status : ∀ s, (f s).status.busy = false ∧ (f s).status.done = true
  internal : ∀ s q p n, f (s.withInternal q p n) = f s

theorem completes_raise (e : CodecError) (op : Option Instr) : Completes (State.raise e op) :=
  ⟨fun _ => rfl, fun _ => ⟨rfl, rfl⟩, fun _ _ _ _ => rfl⟩

theorem completes_crc (crc : Half → Half) : Completes fun s => { s with crcAcc := crc s.crcAcc }.succeedKeeping :=
  ⟨fun _ => rfl, fun _ => ⟨rfl, rfl⟩, fun _ _ _ _ => rfl⟩

theorem completes_encoded (cmd : List Byte) : Completes (State.encoded cmd) :=
  ⟨fun _ => rfl, fun _ => ⟨rfl, rfl⟩, fun _ _ _ _ => rfl⟩

theorem completes_decoded (f : Frame) : Completes (State.decoded f) :=
  ⟨fun _ => rfl, fun _ => ⟨rfl, rfl⟩, fun _ _ _ _ => rfl⟩

theorem completes_parsed (f : Frame) (r : WeightRecord) : Completes (State.parsed f r) :=
  ⟨fun _ => rfl, fun _ => ⟨rfl, rfl⟩, fun _ _ _ _ => rfl⟩

/-- On all states with the operand of `s` an operation ends alike: in the model fault, or in one completion. -/
theorem exec_decided (i : Instr) (s : State) : ∃ f, (f = State.modelFault .noValueRead ∨ Completes f) ∧
    ∀ u, exec i (s.withOperandOf u) = .next (f (s.withOperandOf u)) := by
  cases i with
  | crcInit => exact ⟨_, .inr (completes_crc fun _ => 0), fun u => exec_crcInit _⟩
  | crcByte b => exact ⟨_, .inr (completes_crc (crcStep · b)), fun u => exec_crcByte b _⟩
  | crcBuf =>
    by_cases hlen : Config.inCap < s.latchedLen.toNat
    · exact ⟨_, .inr (completes_raise _ _), fun u => execCrcBuf_lenRange hlen⟩
    · have hlen := Nat.not_lt.1 hlen
      cases ho : s.operand with
      | none => exact ⟨_, .inl rfl, fun u => execCrcBuf_noValue hlen ho⟩
      | some bs =>
        have hbs := (s.operand_eq_some bs).1 ho
        exact ⟨_, .inr (completes_crc fun _ => checksum bs), fun u => execCrcBuf_done hlen hbs⟩
  | frmEnc =>
    by_cases hlen : Config.inCap < s.latchedLen.toNat ∨ 65535 < s.latchedLen.toNat
    · exact ⟨_, .inr (completes_raise _ _), fun u => execFrmEnc_lenRange hlen⟩
    · have hlen : s.latchedLen.toNat ≤ 65535 := Nat.not_lt.1 fun h => hlen (.inr h)
      cases ho : s.operand with
      | none => exact ⟨_, .inl rfl, fun u => execFrmEnc_noValue hlen ho⟩
      | some cmd =>
        have hcmd := (s.operand_eq_some cmd).1 ho
        exact ⟨_, .inr (completes_encoded cmd), fun u => execFrmEnc_done (hcmd.latchedLen_eq ▸ hlen) hcmd⟩
  | frmDec =>
    by_cases hlen : Config.inCap < s.latchedLen.toNat
    · exact ⟨_, .inr (completes_raise _ _), fun u => execFrmDec_lenRange hlen⟩
    · by_cases h7 : s.latchedLen.toNat < 7
      · exact ⟨_, .inr (completes_raise _ _), fun u => execFrmDec_short h7⟩
      · have hlen := Nat.not_lt.1 hlen
        have h7 := Nat.not_lt.1 h7
        cases hl : s.inBuf.readBE16 3 with
        | none => exact ⟨_, .inl rfl, fun u => execFrmDec_noLength hlen h7 hl⟩
        | some len =>
          by_cases heq : len.toNat = s.latchedLen.toNat - 7
          · have hN : s.latchedLen.toNat = len.toNat + 7 := by omega
            cases hf : s.inBuf.frameAt len.toNat with
            | none => exact ⟨_, .inl rfl, fun u => execFrmDec_noValue hN hl hf⟩
            | some f =>
              obtain ⟨-, hl', -, -⟩ := (Memory.frameAt_eq_some _ _ _).1 hf
              cases hl.symm.trans hl'
              exact ⟨_, .inr (completes_decoded f), fun u => execFrmDec_done hN hf⟩
          · exact ⟨_, .inr (completes_raise _ _), fun u => execFrmDec_mismatch hlen h7 hl heq⟩
  | rspDec =>
    by_cases hlen : Config.inCap < s.latchedLen.toNat
    · exact ⟨_, .inr (completes_raise _ _), fun u => execRspDec_lenRange hlen⟩
    · by_cases hN : s.latchedLen.toNat = 14
      · cases hf : s.inBuf.frameAt 7 with
        | none => exact ⟨_, .inl rfl, fun u => execRspDec_noValue hN (.inl hf)⟩
        | some f =>
          cases hr : s.inBuf.recordAt with
          | none => exact ⟨_, .inl rfl, fun u => execRspDec_noValue hN (.inr hr)⟩
          | some r => exact ⟨_, .inr (completes_parsed f r), fun u => execRspDec_done hN hf hr⟩
      · exact ⟨_, .inr (completes_raise _ _), fun u => execRspDec_wrongSize (Nat.not_lt.1 hlen) hN⟩

/-! ### A turn of the host, by the statement at the head of its program (R69) -/

section
variable {s : State} {rest : List HostStmt}

theorem State.hostTurn_nil (h : s.program = []) : s.hostTurn = s := by
  rw [State.hostTurn, h]

theorem State.hostTurn_access {x : Access} (h : s.program = .access x :: rest) : s.hostTurn = s.hostDoes x rest := by
  rw [State.hostTurn, h]

theorem State.hostTurn_reset (h : s.program = .reset :: rest) : s.hostTurn = { s with program := rest }.resetEvent := by
  rw [State.hostTurn, h]

theorem State.hostTurn_wait (h : s.program = .wait :: rest) :
    s.hostTurn = s.hostDoes (.readReg Reg.status.offset 32) (if s.status.busy then .wait :: rest else rest) := by
  rw [State.hostTurn, h]

theorem State.hostTurn_copyOut (h : s.program = .copyOut :: rest) :
    s.hostTurn = s.hostDoes (.readReg Reg.outLen.offset 32)
      ((s.regValue .outLen).elim rest fun n => .copyFrom 0 n.toNat :: rest) := by
  rw [State.hostTurn, h]
  cases s.regValue .outLen <;> rfl

theorem State.hostTurn_copyFrom {a n : Nat} (h : s.program = .copyFrom a n :: rest) (ha : a < n) :
    s.hostTurn = s.hostDoes (.readOut a 8)
      ((s.outByte a).elim rest fun v => .wrb a v :: .copyFrom (a + 1) n :: rest) := by
  rw [State.hostTurn, h]
  simp only [if_pos ha]
  cases s.outByte a <;> rfl

theorem State.hostTurn_copyFrom_end {a n : Nat} (h : s.program = .copyFrom a n :: rest) (ha : ¬ a < n) :
    s.hostTurn = s.hostDoes (.writeReg Reg.inLen.offset 32 (BitVec.ofNat 32 n)) rest := by
  rw [State.hostTurn, h]
  exact if_neg ha

end

/-! ### The internal state does not show (R37, I6) -/

theorem sameButInternal_refl (t : State) : sameButInternal (.next t) (.next t) :=
  ⟨t.seq, t.pend, t.latchedLen, rfl, fun _ => ⟨rfl, rfl⟩⟩

/-- A completion overwrites the internal state, and a model fault leaves it. -/
theorem exec_withInternal (i : Instr) (s : State) (q : Sequencer) :
    sameButInternal (exec i s) (exec i (s.withInternal q s.pend s.latchedLen)) := by
  obtain ⟨f, hf, hexec⟩ := exec_decided i s
  have hs : exec i s = .next (f s) := hexec s
  have hq : exec i (s.withInternal q s.pend s.latchedLen) = .next (f (s.withInternal q s.pend s.latchedLen)) :=
    hexec (s.withInternal q s.pend s.latchedLen)
  rw [hs, hq]
  obtain rfl | hf := hf
  · exact ⟨q, s.pend, s.latchedLen, rfl, fun _ => ⟨rfl, rfl⟩⟩
  · rw [hf.internal]
    exact sameButInternal_refl _

section
variable {s : State} {q : Sequencer} {p n : Word} (h : s.status.busy = true → p = s.pend ∧ n = s.latchedLen)
include h

/-- The effect of an access reads no internal state, and a command, which writes PEND and N_L, writes what it reads of CTRL's word
and IN_LEN. -/
theorem Access.perform_withInternal (x : Access) :
    sameButInternal (.next (x.perform s)) (.next (x.perform (s.withInternal q p n))) := by
  have hvalue : ∀ r, (s.withInternal q p n).regValue r = s.regValue r := fun r => by cases r <;> rfl
  have hbyte : ∀ a, (s.withInternal q p n).outByte a = s.outByte a := fun _ => rfl
  have same {t : State} (ht : t.status.busy = true → p = t.pend ∧ n = t.latchedLen) :
    sameButInternal (.next t) (.next (t.withInternal q p n)) := ⟨q, p, n, rfl, ht⟩
  cases x with
  | readReg o w =>
    simp only [Access.perform, hvalue]
    repeat' split
    all_goals exact same h
  | writeReg o w v =>
    simp only [Access.perform]
    split
    next r _ =>
      cases r with
      | ctrl => exact ⟨q, v, s.inLen, rfl, fun _ => ⟨rfl, rfl⟩⟩
      | _ => exact same h
    next => exact same h
  | readIn a w =>
    simp only [Access.perform, State.withInternal_inBuf]
    split <;> exact same h
  | writeIn a w v => exact same h
  | readOut a w =>
    simp only [Access.perform, hbyte]
    split <;> exact same h
  | writeOut a w v => exact same h

theorem State.hostAccess_withInternal (x : Access) :
    sameButInternal (.next (s.hostAccess x)) (.next ((s.withInternal q p n).hostAccess x)) := by
  have hreasons : x.reasons (s.withInternal q p n) = x.reasons s := rfl
  by_cases hr : x.reasons s = []
  · rw [State.hostAccess_allowed hr, State.hostAccess_allowed (hreasons.trans hr)]
    exact Access.perform_withInternal h x
  · rw [State.hostAccess_faults hr, State.hostAccess_faults (hreasons ▸ hr), hreasons]
    exact ⟨q, p, n, rfl, h⟩

theorem State.hostTurn_withInternal : sameButInternal (.next s.hostTurn) (.next (s.withInternal q p n).hostTurn) := by
  have hdoes : ∀ x rest, sameButInternal (.next (s.hostDoes x rest)) (.next ((s.withInternal q p n).hostDoes x rest)) :=
    fun x rest => State.hostAccess_withInternal (s := { s with program := rest }) h x
  rcases hp : s.program with - | ⟨x | - | - | - | ⟨a, len⟩, rest⟩
  · rw [State.hostTurn_nil hp, State.hostTurn_nil (s := s.withInternal q p n) hp]
    exact ⟨q, p, n, rfl, h⟩
  · rw [State.hostTurn_access hp, State.hostTurn_access (s := s.withInternal q p n) hp]
    exact hdoes _ _
  · rw [State.hostTurn_reset hp, State.hostTurn_reset (s := s.withInternal q p n) hp]
    exact sameButInternal_refl _
  · rw [State.hostTurn_wait hp, State.hostTurn_wait (s := s.withInternal q p n) hp]
    exact hdoes _ _
  · rw [State.hostTurn_copyOut hp, State.hostTurn_copyOut (s := s.withInternal q p n) hp]
    exact hdoes _ _
  · by_cases hlt : a < len
    · rw [State.hostTurn_copyFrom hp hlt, State.hostTurn_copyFrom (s := s.withInternal q p n) hp hlt]
      exact hdoes _ _
    · rw [State.hostTurn_copyFrom_end hp hlt, State.hostTurn_copyFrom_end (s := s.withInternal q p n) hp hlt]
      exact hdoes _ _

/-- The codec's completion reads PEND and N_L of the pending operation, and writes free values over the whole internal state. -/
theorem State.codecTurn_withInternal : sameButInternal s.codecTurn (s.withInternal q p n).codecTurn := by
  rw [State.codecTurn, State.codecTurn, State.withInternal_status]
  split
  next hb =>
    obtain ⟨rfl, rfl⟩ := h hb
    rw [State.codecComplete, State.codecComplete, State.withInternal_pend]
    split
    next i _ => exact exec_withInternal i s q
    next => exact sameButInternal_refl _
  next => exact ⟨q, p, n, rfl, h⟩

theorem step_withInternal : sameButInternal (step s) (step (s.withInternal q p n)) := by
  cases hf : s.faults with
  | cons r rs => rw [step_of_faults hf, step_of_faults (s := s.withInternal q p n) hf]; rfl
  | nil =>
    rw [step_clean hf, step_clean (s := s.withInternal q p n) hf]
    cases hm : s.mover with
    | host =>
      rw [State.turn_host hm, State.turn_host (s := s.withInternal q p n) hm]
      exact State.hostTurn_withInternal (s := s.takeTurn) h
    | codec =>
      rw [State.turn_codec hm, State.turn_codec (s := s.withInternal q p n) hm]
      exact State.codecTurn_withInternal (s := s.takeTurn) h

end

/-- Two runs that differ in the internal state alone differ in it alone for ever: each step keeps the relation. -/
theorem run_withInternal (k : Nat) {s : State} {q : Sequencer} {p n : Word}
    (h : s.status.busy = true → p = s.pend ∧ n = s.latchedLen) :
    sameButInternal (run k s) (run k (s.withInternal q p n)) := by
  induction k generalizing s q p n with
  | zero => exact ⟨q, p, n, rfl, h⟩
  | succ k ih =>
    have hstep := step_withInternal (q := q) h
    cases hf : s.faults with
    | cons r rs =>
      rw [run, core_run_fault (step_of_faults hf), run, core_run_fault (step_of_faults (s := s.withInternal q p n) hf)]
      rfl
    | nil =>
      obtain ⟨t, ht⟩ := step_next_of_clean hf
      obtain ⟨u, hu⟩ := step_next_of_clean (s := s.withInternal q p n) hf
      rw [ht, hu] at hstep
      obtain ⟨q', p', n', rfl, h'⟩ := hstep
      rw [run, core_run_next ht, run, core_run_next hu]
      exact ih h'

end Sys2Proof.Machine

namespace Sys2Proof.Proofs

open Sys2Proof.Machine

/-- Settles O47: the relation "the same but for the internal state" is kept by every step, so by every run. -/
theorem internalStateIsUnobservable : Obligations.InternalStateIsUnobservable :=
  fun k _ _ _ _ h => run_withInternal k h

/-- Settles O50: IN_BUF and N decide how an operation ends, so it is model fault NoValueRead whatever FAULTS holds, or completes;
with FAULTS empty the fault is seen, so there it meets NOVALUE. -/
theorem noValueReadLeavesTheRest : Obligations.NoValueReadLeavesTheRest := by
  refine fun i s => ⟨exec_of_meetsNoValue, fun hm => ?_⟩
  obtain ⟨f, rfl | hf, hexec⟩ := exec_decided i s
  · have hfault : exec i { s with faults := [] } = .next { s with faults := [.noValueRead] } := hexec { s with faults := [] }
    have hmeets := meetsNoValue_of_exec hfault (List.cons_ne_nil _ _)
    exact absurd (by cases i <;> exact hmeets) hm
  · obtain ⟨hbusy, hdone⟩ := hf.status s
    exact ⟨f s, hexec s, hf.faults s, hbusy, hdone⟩

end Sys2Proof.Proofs
end

section
/-! The invariant of the block: it holds at reset, and each kind of move keeps it. -/

open Sys2Proof.Claims

namespace Sys2Proof.Machine

/-! ### STATUS is consistent after each kind of write -/

theorem Status.consistent_reset : Status.reset.Consistent := by
  constructor <;> simp [Status.reset]

/-- A command leaves STATUS consistent (R20). -/
theorem Status.consistent_started (st : Status) : st.started.Consistent := by
  constructor <;> simp

/-- A success leaves STATUS consistent, whatever check and valid bits it writes (R91). -/
theorem Status.Consistent.of_success {st : Status} (hbusy : st.busy = false) (herr : st.err = false)
    (hcode : st.errcode = 0) : st.Consistent := by
  constructor <;> simp [hbusy, herr, hcode]

/-- An error leaves STATUS consistent: its code is named, and no check bit stands beside it (R90, R92). -/
theorem Status.consistent_failed (e : CodecError) (op : Option Instr) (st : Status) : (st.failed e op).Consistent where
  busyNotDone := by simp
  errcodeZero := by simp
  errcodeNamed _ := e.code_named
  errorIsReported := by simp

/-! ### The results are held after each kind of completion -/

/-- With all valid and check bits 0 nothing is asked of the results (R103). -/
theorem State.resultsHeld_of_reset {s : State} (h : s.status = Status.reset) : s.ResultsHeld := by
  constructor <;> simp [h, Status.reset]

/-- Over the same result cells, valid bits that stay, or are all cleared, beside check bits of 0, still stand for values. -/
theorem State.ResultsHeld.keep {s : State} (h : s.ResultsHeld) (keep : Bool) (crc : Half) {st : Status}
    (ho : st.oValid = (s.status.oValid && keep)) (hf : st.fValid = (s.status.fValid && keep))
    (hr : st.rValid = (s.status.rValid && keep)) (hhdr : st.hdrOk = false) (hlen : st.lenOk = false)
    (hcrc : st.crcOk = false) : ({ s with crcAcc := crc }.complete st).ResultsHeld := by
  cases keep with
  | false => constructor <;> simp [ho, hf, hr, hhdr, hlen, hcrc]
  | true =>
    rw [Bool.and_true] at ho hf hr
    exact
      { outHeld := by simpa [ho] using h.outHeld
        frameHeld := by simpa [hf] using h.frameHeld
        recordHeld := by simpa [hr] using h.recordHeld
        recordInFrame := by simpa [ho, hf, hr] using h.recordInFrame
        headerChecked := by simp [hhdr]
        lengthChecked := by simp [hlen]
        checksumChecked := by simp [hcrc] }

/-- A result no longer than OUT can hold is held after it is stored (R27, R43). -/
theorem State.storeResult_held (s : State) {bs : List Byte} (h : bs.length ≤ 65542) :
    ∃ n, (s.storeResult bs).outLen = some n ∧ n.toNat ≤ Config.outCap ∧
      ∀ a < n.toNat, ((s.storeResult bs).outBuf.read a).isSome = true := by
  have hcap := Config.minCap_le_outCap
  have hlen : (BitVec.ofNat 32 bs.length).toNat = bs.length := by
    rw [BitVec.toNat_ofNat, Nat.mod_eq_of_lt (by omega)]
  refine ⟨_, rfl, by omega, fun a ha => ?_⟩
  rw [hlen] at ha
  simp [s.outBuf.read_writeRange_zero_lt ha]

theorem Memory.frameAt_payload_length {m : Memory} {n : Nat} {f : Frame} (h : m.frameAt n = some f) :
    f.payload.length = n := by
  obtain ⟨-, -, hpayload, -⟩ := (Memory.frameAt_eq_some _ _ _).1 h
  exact ((Memory.readRange_eq_some _ _ _ _).1 hpayload).1

theorem Memory.writeRange_nil (m : Memory) : m.writeRange 0 [] = m := by
  simp [Memory.writeRange, cellsFrom]

/-- What a success stores besides its registers: nothing in IN, and in OUT a result of at most the largest frame (R8, R91). -/
theorem ExecSuccess.stores {s t : State} {i : Instr} (h : ExecSuccess s t i) :
    t.status.errcode = 0 ∧ t.inBuf = s.inBuf ∧
      ∃ bs : List Byte, bs.length ≤ 65542 ∧ t.outBuf = s.outBuf.writeRange 0 bs := by
  have hnone := s.outBuf.writeRange_nil
  cases i with
  | crcInit => subst h; exact ⟨rfl, rfl, [], by simp, hnone.symm⟩
  | crcByte b => subst h; exact ⟨rfl, rfl, [], by simp, hnone.symm⟩
  | crcBuf => obtain ⟨bs, -, -, rfl⟩ := h; exact ⟨rfl, rfl, [], by simp, hnone.symm⟩
  | frmEnc => obtain ⟨cmd, -, hlen, rfl⟩ := h; exact ⟨rfl, rfl, _, by rw [encodeFrame_length]; omega, rfl⟩
  | frmDec =>
    obtain ⟨f, -, hf, rfl⟩ := h
    have hbound := f.length.isLt
    exact ⟨rfl, rfl, _, by rw [Memory.frameAt_payload_length hf]; omega, rfl⟩
  | rspDec => obtain ⟨f, r, -, -, -, rfl⟩ := h; exact ⟨rfl, rfl, [], by simp, hnone.symm⟩

theorem ExecSuccess.resultsHeld {s t : State} {i : Instr} (h : s.ResultsHeld) (hs : ExecSuccess s t i) : t.ResultsHeld := by
  have hcrc : ∀ crc, { s with crcAcc := crc }.succeedKeeping.ResultsHeld := fun crc =>
    h.keep true crc (by simp) (by simp) (by simp) rfl rfl rfl
  cases i with
  | crcInit => subst hs; exact hcrc _
  | crcByte b => subst hs; exact hcrc _
  | crcBuf => obtain ⟨bs, -, -, rfl⟩ := hs; exact hcrc _
  | frmEnc =>
    obtain ⟨cmd, -, hlen, rfl⟩ := hs
    have hheld := State.storeResult_held { s with crcAcc := checksum cmd } (bs := encodeFrame cmd)
      (by rw [encodeFrame_length]; omega)
    exact
      { outHeld := fun _ => hheld
        frameHeld := by simp
        recordHeld := by simp
        recordInFrame := by simp
        headerChecked := by simp
        lengthChecked := by simp
        checksumChecked := by simp }
  | frmDec =>
    obtain ⟨f, -, hf, rfl⟩ := hs
    have hlen := Memory.frameAt_payload_length hf
    have hbound := f.length.isLt
    have hout : BitVec.ofNat 32 f.payload.length = f.length.setWidth 32 := by
      rw [hlen, BitVec.ofNat_toNat]
    exact
      { outHeld := fun _ => State.storeResult_held (s.loadFrame f) (by omega)
        frameHeld := fun _ => ⟨rfl, rfl, rfl⟩
        recordHeld := by simp
        recordInFrame := by simp
        headerChecked := fun hok => ⟨rfl, congrArg some (beq_iff_eq.1 hok)⟩
        lengthChecked := fun _ => ⟨rfl, f.length, rfl, by simp, fun _ => congrArg some hout⟩
        checksumChecked := fun hok => ⟨rfl, congrArg some (beq_iff_eq.1 hok)⟩ }
  | rspDec =>
    obtain ⟨f, r, -, -, -, rfl⟩ := hs
    exact
      { outHeld := by simp
        frameHeld := fun _ => ⟨rfl, rfl, rfl⟩
        recordHeld := fun _ => ⟨rfl, rfl, rfl, rfl⟩
        recordInFrame := fun _ => ⟨rfl, rfl⟩
        headerChecked := fun hok => ⟨rfl, congrArg some (beq_iff_eq.1 hok)⟩
        lengthChecked := fun hok => ⟨rfl, f.length, rfl, fun _ => beq_iff_eq.1 hok, by simp⟩
        checksumChecked := fun hok => ⟨rfl, congrArg some (beq_iff_eq.1 hok)⟩ }

theorem State.raise_resultsHeld {s : State} (h : s.ResultsHeld) (e : CodecError) (op : Option Instr) :
    (s.raise e op).ResultsHeld :=
  h.keep (!clearsValid e op) s.crcAcc rfl rfl rfl rfl rfl rfl

/-! ### Each kind of move keeps the invariant -/

theorem State.inv_reset : State.reset.Inv where
  inCanonical := List.Pairwise.nil
  outCanonical := List.Pairwise.nil
  inBelow := by simp [State.reset, Memory.below]
  outBelow := by simp [State.reset, Memory.below]
  status := Status.consistent_reset
  results := State.resultsHeld_of_reset rfl
  pendHeld := by simp [State.reset, Status.reset]
  lengthHeld := by simp [State.reset, Status.reset]
  faultsOnce := List.nodup_nil

/-- RESET gives the block its reset state, and keeps FAULTS (R103 to R105). -/
theorem State.resetEvent_inv {s : State} (h : s.faults.Nodup) : s.resetEvent.Inv where
  inCanonical := State.inv_reset.inCanonical
  outCanonical := State.inv_reset.outCanonical
  inBelow := State.inv_reset.inBelow
  outBelow := State.inv_reset.outBelow
  status := Status.consistent_reset
  results := State.resultsHeld_of_reset rfl
  pendHeld := by simp [State.reset, Status.reset]
  lengthHeld := by simp [State.reset, Status.reset]
  faultsOnce := h

section
variable {s : State} (h : s.Inv)
include h

/-- The invariant says nothing of the host agent. -/
theorem State.Inv.withHost (p : List HostStmt) (l : List Agent) (tr : List Observation) :
    { s with program := p, turns := l, trace := tr }.Inv :=
  { h with results := { h.results with } }

theorem State.Inv.withFaults {fs : List Fault} (hfs : fs.Nodup) : { s with faults := fs }.Inv :=
  { h with results := { h.results with }, faultsOnce := hfs }

/-- A command latches what it writes to CTRL, and IN_LEN (R18, R25). -/
theorem State.Inv.command (w : Word) : (s.command w).Inv :=
  { h with
    results := { h.results with }
    status := s.status.consistent_started
    pendHeld := fun _ => rfl
    lengthHeld := fun _ => rfl }

theorem State.Inv.hostAccess (x : Access) : (s.hostAccess x).Inv := by
  obtain ⟨fs, -, hx⟩ | ⟨o, hx⟩ | hx | ⟨w, -, -, hx⟩ | ⟨w, hb, -, hx⟩ | ⟨a, v, -, -, ha, hx⟩ := State.hostAccess_cases x s
  all_goals rw [hx]
  · exact h.withFaults (nodup_foldl_addFault h.faultsOnce)
  · exact h.withHost s.program s.turns _
  · exact h
  · exact h.command w
  · exact { h with results := { h.results with }, lengthHeld := by simp [hb] }
  · exact { h with
      results := { h.results with }
      inCanonical := Memory.wf_write h.inCanonical a v
      inBelow := Memory.below_write h.inBelow ha v }

theorem State.Inv.hostTurn : s.hostTurn.Inv := by
  obtain ht | ⟨p, ht⟩ | ⟨p, x, ht⟩ := s.hostTurn_cases
  all_goals rw [ht]
  · exact h
  · exact State.resetEvent_inv h.faultsOnce
  · exact (h.withHost p s.turns s.trace).hostAccess x

theorem State.Inv.raise (e : CodecError) (op : Option Instr) : (s.raise e op).Inv :=
  { h with
    status := Status.consistent_failed e op s.status
    results := State.raise_resultsHeld h.results e op
    pendHeld := by simp
    lengthHeld := by simp }

theorem State.Inv.success {t : State} {i : Instr} (hs : ExecSuccess s t i) : t.Inv := by
  obtain ⟨hbusy, -, herr, hfaults⟩ := hs.completed
  obtain ⟨hcode, hin, bs, hlen, hout⟩ := hs.stores
  have hcap := Config.minCap_le_outCap
  exact
    { inCanonical := hin ▸ h.inCanonical
      inBelow := hin ▸ h.inBelow
      outCanonical := hout ▸ Memory.wf_writeRange h.outCanonical 0 bs
      outBelow := hout ▸ Memory.below_writeRange h.outBelow (by omega)
      status := .of_success hbusy herr hcode
      results := hs.resultsHeld h.results
      pendHeld := by simp [hbusy]
      lengthHeld := by simp [hbusy]
      faultsOnce := hfaults ▸ h.faultsOnce }

theorem State.Inv.codecComplete {t : State} (ht : s.codecComplete = .next t) : t.Inv := by
  obtain rfl | ⟨i, -, hi⟩ := State.codecComplete_cases ht
  · exact h.raise _ _
  · obtain ⟨e, -, rfl⟩ | rfl | hs := exec_next_cases hi
    · exact h.raise _ _
    · exact h.withFaults (nodup_addFault h.faultsOnce _)
    · exact h.success hs

theorem State.Inv.step {t : State} (ht : Machine.step s = .next t) : t.Inv := by
  have hturn : s.takeTurn.Inv := h.withHost s.program s.turns.tail s.trace
  obtain ⟨-, ⟨-, rfl⟩ | ⟨-, -, rfl⟩ | ⟨-, -, hcomplete⟩⟩ := step_cases ht
  · exact hturn.hostTurn
  · exact hturn
  · exact hturn.codecComplete hcomplete

end

end Sys2Proof.Machine

namespace Sys2Proof.Proofs

open Sys2Proof.Machine

/-- Settles O44: a turn of the host, a turn of the codec that passes and a completion each keep the invariant. -/
theorem stepKeepsTheInvariant : Obligations.StepKeepsTheInvariant :=
  fun _ _ h ht => h.step ht

/-- Settles O45: both buffers are empty there, and no bit of STATUS asks for a value. -/
theorem resetHasTheInvariant : Obligations.ResetHasTheInvariant :=
  State.inv_reset

end Sys2Proof.Proofs
end

section
/-! The byte orders of the wire (00_scope.md R11, 30_encoding.md R65), as numbers. -/

open Sys2Proof.Claims

namespace Sys2Proof.Machine

/-- A byte shifted above all the bits of a word is added to it, times its place. -/
theorem toNat_or_shiftLeft {w : Nat} {v : BitVec w} {k : Nat} (b : Byte) (hv : v.toNat < 2 ^ k) (hk : k + 8 ≤ w) :
    (v ||| b.setWidth w <<< k).toNat = v.toNat + 2 ^ k * b.toNat := by
  have hb : (b.setWidth w).toNat = b.toNat := BitVec.toNat_setWidth_of_le (by omega)
  have hfits : b.toNat <<< k < 2 ^ w :=
    calc b.toNat <<< k = b.toNat * 2 ^ k := Nat.shiftLeft_eq _ _
      _ < 2 ^ 8 * 2 ^ k := Nat.mul_lt_mul_of_pos_right b.isLt (Nat.two_pow_pos k)
      _ = 2 ^ (k + 8) := by rw [Nat.add_comm, Nat.pow_add]
      _ ≤ 2 ^ w := Nat.pow_le_pow_right (by decide) hk
  rw [BitVec.toNat_or, BitVec.toNat_shiftLeft, hb, Nat.mod_eq_of_lt hfits, Nat.or_comm, ← Nat.shiftLeft_add_eq_or_of_lt hv,
    Nat.shiftLeft_eq, Nat.mul_comm, Nat.add_comm]

theorem be16_toNat (x y : Byte) : (be16 x y).toNat = 256 * x.toNat + y.toNat := by
  have h0 : (y.setWidth 16).toNat = y.toNat := BitVec.toNat_setWidth_of_le (by decide)
  have h1 := toNat_or_shiftLeft (k := 8) x (h0.trans_lt y.isLt) (by decide)
  rw [be16, BitVec.or_comm]
  omega

theorem u24_toNat (x y z : Byte) : (u24 x y z).toNat = 65536 * x.toNat + 256 * y.toNat + z.toNat := by
  have hz := z.isLt
  have h0 : (z.setWidth 24).toNat = z.toNat := BitVec.toNat_setWidth_of_le (by decide)
  have h1 := toNat_or_shiftLeft (k := 8) y (h0.trans_lt z.isLt) (by decide)
  have h2 := toNat_or_shiftLeft (k := 16) x (h1.trans_lt (by omega)) (by decide)
  rw [u24, BitVec.or_assoc, BitVec.or_comm, BitVec.or_comm (y.setWidth 24 <<< 8)]
  omega

theorem le32_toNat (a b c d : Byte) :
    (le32 a b c d).toNat = a.toNat + 256 * b.toNat + 65536 * c.toNat + 16777216 * d.toNat := by
  have ha := a.isLt
  have h0 : (a.setWidth 32).toNat = a.toNat := BitVec.toNat_setWidth_of_le (by decide)
  have h1 := toNat_or_shiftLeft (k := 8) b (h0.trans_lt ha) (by decide)
  have h2 := toNat_or_shiftLeft (k := 16) c (h1.trans_lt (by omega)) (by decide)
  have h3 := toNat_or_shiftLeft (k := 24) d (h2.trans_lt (by omega)) (by decide)
  rw [le32]
  omega

end Sys2Proof.Machine

namespace Sys2Proof.Proofs

open Sys2Proof.Machine

/-- Settles O21: each byte is added at its place, and a number's own bytes read back as the number. -/
theorem byteOrdersOfTheWire : Obligations.ByteOrdersOfTheWire :=
  ⟨be16_toNat, u24_toNat, le32_toNat, fun v => ⟨_, _, rfl, be16_bytes v⟩, u24_headerBytes⟩

end Sys2Proof.Proofs
end

section
/-! The frame codec as its own inverse (41_frame_codec.md R81, R84): a frame is read exactly where its bytes lie, and the frame
of a command has the bytes FRM.ENC stores. -/

open Sys2Proof.Claims

namespace Sys2Proof.Machine

/-! ### A frame as its bytes (R64) -/

/-- `v` as three bytes, the first on the wire in bits 23:16 (R6, R65). -/
def bytesU24 (v : U24) : List Byte := [v.extractLsb' 16 8, v.extractLsb' 8 8, v.extractLsb' 0 8]

theorem bytesU24_u24 (x y z : Byte) : bytesU24 (u24 x y z) = [x, y, z] := by
  have hx := x.isLt
  have hy := y.isLt
  have hz := z.isLt
  have h2 : (u24 x y z).extractLsb' 16 8 = x := by
    apply BitVec.eq_of_toNat_eq
    rw [BitVec.extractLsb'_toNat, u24_toNat, Nat.shiftRight_eq_div_pow]
    omega
  have h1 : (u24 x y z).extractLsb' 8 8 = y := by
    apply BitVec.eq_of_toNat_eq
    rw [BitVec.extractLsb'_toNat, u24_toNat, Nat.shiftRight_eq_div_pow]
    omega
  have h0 : (u24 x y z).extractLsb' 0 8 = z := by
    apply BitVec.eq_of_toNat_eq
    rw [BitVec.extractLsb'_toNat, u24_toNat, Nat.shiftRight_eq_div_pow]
    omega
  rw [bytesU24, h2, h1, h0]

/-- A header is that of its own three bytes. -/
theorem u24_bytes (v : U24) : u24 (v.extractLsb' 16 8) (v.extractLsb' 8 8) (v.extractLsb' 0 8) = v := by
  have hv := v.isLt
  apply BitVec.eq_of_toNat_eq
  rw [u24_toNat, BitVec.extractLsb'_toNat, BitVec.extractLsb'_toNat, BitVec.extractLsb'_toNat, Nat.shiftRight_eq_div_pow,
    Nat.shiftRight_eq_div_pow, Nat.shiftRight_zero]
  omega

theorem bytesBE16_be16 (x y : Byte) : bytesBE16 (be16 x y) = [x, y] := by
  rw [bytesBE16, be16_hi, be16_lo]

/-- The bytes of a frame in wire order (R64). -/
def Frame.bytes (f : Frame) : List Byte := bytesU24 f.header ++ (bytesBE16 f.length ++ (f.payload ++ bytesBE16 f.check))

theorem Memory.readRange_cons (m : Memory) (a n : Nat) (b : Byte) (bs : List Byte) :
    m.readRange a (n + 1) = some (b :: bs) ↔ m.read a = some b ∧ m.readRange (a + 1) n = some bs := by
  simp [Memory.readRange, Option.bind_eq_some_iff]

theorem Memory.readRange_append (m : Memory) (a n : Nat) {k : Nat} {xs : List Byte} (hk : xs.length = k) (ys : List Byte) :
    m.readRange a (k + n) = some (xs ++ ys) ↔ m.readRange a k = some xs ∧ m.readRange (a + k) n = some ys := by
  subst hk
  induction xs generalizing a with
  | nil => simp
  | cons x xs ih =>
    rw [List.length_cons, List.cons_append, Nat.add_right_comm, Memory.readRange_cons, Memory.readRange_cons, ih, and_assoc,
      Nat.add_right_comm a 1, Nat.add_assoc a]

theorem Memory.readBE16_iff_bytes (m : Memory) (a : Nat) (v : Half) :
    m.readBE16 a = some v ↔ m.readRange a 2 = some (bytesBE16 v) := by
  rw [Memory.readBE16_eq_some]
  constructor
  · rintro ⟨x, y, hx, hy, rfl⟩
    simp [bytesBE16_be16, Memory.readRange_cons, hx, hy]
  · intro h
    simp only [bytesBE16, Memory.readRange_cons] at h
    obtain ⟨hx, hy, -⟩ := h
    exact ⟨_, _, hx, hy, (be16_bytes v).symm⟩

theorem Memory.readU24_iff_bytes (m : Memory) (a : Nat) (v : U24) :
    m.readU24 a = some v ↔ m.readRange a 3 = some (bytesU24 v) := by
  rw [Memory.readU24_eq_some]
  constructor
  · rintro ⟨x, y, z, hx, hy, hz, rfl⟩
    simp [bytesU24_u24, Memory.readRange_cons, hx, hy, hz]
  · intro h
    simp only [bytesU24, Memory.readRange_cons] at h
    obtain ⟨hx, hy, hz, -⟩ := h
    exact ⟨_, _, _, hx, hy, hz, (u24_bytes v).symm⟩

/-- A frame is read from address 0 exactly when its bytes lie there. -/
theorem Memory.frameAt_iff_bytes (m : Memory) {n : Nat} {f : Frame} (hn : f.payload.length = n) :
    m.frameAt n = some f ↔ m.readRange 0 (n + 7) = some f.bytes := by
  have hsize : n + 7 = 3 + (2 + (n + 2)) := by omega
  rw [Memory.frameAt_eq_some, Memory.readU24_iff_bytes, Memory.readBE16_iff_bytes, Memory.readBE16_iff_bytes, hsize, Frame.bytes,
    Memory.readRange_append m _ _ (k := 3) rfl, Memory.readRange_append m _ _ (k := 2) rfl, Memory.readRange_append m _ _ hn]

/-- The frame FRM.ENC makes of a command (R62). -/
def requestOf (cmd : List Byte) : Frame :=
  { header := Config.header, length := BitVec.ofNat 16 cmd.length, payload := cmd, check := checksum cmd }

theorem requestOf_bytes (cmd : List Byte) : (requestOf cmd).bytes = encodeFrame cmd := by
  simp [requestOf, Frame.bytes, encodeFrame, bytesU24, headerBytes, Config.h0, Config.h1, Config.h2]

/-- A frame with HEADER, the true length and the true checksum is the request frame of its payload. -/
theorem Frame.eq_requestOf {f : Frame} (hheader : f.headerOk = true) (hlen : f.payload.length = f.length.toNat)
    (hcheck : f.checksumOk = true) : f = requestOf f.payload := by
  obtain ⟨header, length, payload, check⟩ := f
  obtain rfl : header = Config.header := beq_iff_eq.1 hheader
  obtain rfl : check = checksum payload := beq_iff_eq.1 hcheck
  simp only at hlen
  rw [requestOf, hlen, BitVec.ofNat_toNat, BitVec.setWidth_eq]

theorem requestOf_headerOk (cmd : List Byte) : (requestOf cmd).headerOk = true := beq_self_eq_true _

theorem requestOf_checksumOk (cmd : List Byte) : (requestOf cmd).checksumOk = true := beq_self_eq_true _

theorem requestOf_length_toNat {cmd : List Byte} (h : cmd.length ≤ 65535) : (requestOf cmd).length.toNat = cmd.length := by
  rw [requestOf, BitVec.toNat_ofNat, Nat.mod_eq_of_lt (by omega)]

/-! ### What the two operations leave in OUT -/

/-- After a success that stores `bs` as its result, OUT reads as `bs` (R43). -/
theorem State.outByte_storeResult {bs : List Byte} (hlen : bs.length < 2 ^ 32) (s : State) (h l c f r : Bool) (k : Nat) :
    ((s.storeResult bs).succeedWith h l c true f r).outByte k = bs[k]? := by
  obtain hk | hk := Nat.lt_or_ge k bs.length
  · have hN : (BitVec.ofNat 32 bs.length).toNat = bs.length := by rw [BitVec.toNat_ofNat, Nat.mod_eq_of_lt hlen]
    simp [State.outByte, hN, hk, s.outBuf.read_writeRange_zero_lt hk]
  · rw [List.getElem?_eq_none hk]
    exact (State.storeResult_beyond hk).2

theorem State.operandIs.exec_frmEnc {s : State} {cmd : List Byte} (h : s.operandIs cmd) (hlen : cmd.length ≤ 65535) :
    exec .frmEnc s = .next (s.encoded cmd) :=
  (Machine.exec_frmEnc s).trans (execFrmEnc_done hlen h)

theorem State.encoded_outByte {cmd : List Byte} (hlen : cmd.length ≤ 65535) (s : State) (k : Nat) :
    (s.encoded cmd).outByte k = (encodeFrame cmd)[k]? :=
  State.outByte_storeResult (by rw [encodeFrame_length]; omega) _ _ _ _ _ _ k

theorem State.encoded_outLen (cmd : List Byte) (s : State) :
    (s.encoded cmd).regValue .outLen = some (BitVec.ofNat 32 (cmd.length + 7)) := by
  simp [State.regValue, State.encoded]

theorem State.decoded_outByte {f : Frame} (hlen : f.payload.length < 2 ^ 32) (s : State) (k : Nat) :
    (s.decoded f).outByte k = f.payload[k]? :=
  State.outByte_storeResult hlen _ _ _ _ _ _ k

theorem State.decoded_outLen (f : Frame) (s : State) :
    (s.decoded f).regValue .outLen = some (BitVec.ofNat 32 f.payload.length) := by
  simp [State.regValue, State.decoded]

theorem exec_frmDec_of_frameAt {s : State} {f : Frame} (hN : s.latchedLen.toNat = f.length.toNat + 7)
    (hf : s.inBuf.frameAt f.length.toNat = some f) : exec .frmDec s = .next (s.decoded f) :=
  (exec_frmDec s).trans (execFrmDec_done hN hf)

/-- An FRM.DEC that ends without error has read a frame, all of it and no more (R82). -/
theorem exec_frmDec_success {s t : State} (h : exec .frmDec s = .next t) (ht : t.clean) (herr : t.status.err = false) :
    ∃ f : Frame, s.latchedLen.toNat = f.length.toNat + 7 ∧ s.inBuf.frameAt f.length.toNat = some f ∧ t = s.decoded f := by
  obtain ⟨e, -, rfl⟩ | rfl | hs := exec_next_cases h
  · cases herr
  · exact absurd ht (s.modelFault_not_clean _)
  · exact hs

/-! ### The fields of a request frame, where they lie (R62) -/

theorem encodeFrame_length_field (cmd : List Byte) :
    (encodeFrame cmd)[3]? = some ((BitVec.ofNat 16 cmd.length).extractLsb' 8 8) ∧
      (encodeFrame cmd)[4]? = some ((BitVec.ofNat 16 cmd.length).extractLsb' 0 8) :=
  ⟨rfl, rfl⟩

theorem encodeFrame_payload {cmd : List Byte} {k : Nat} (h : k < cmd.length) : (encodeFrame cmd)[5 + k]? = some cmd[k] := by
  simp [encodeFrame, headerBytes, bytesBE16, Nat.add_comm 5 k, List.getElem?_append_left, h]

theorem encodeFrame_check (cmd : List Byte) :
    (encodeFrame cmd)[5 + cmd.length]? = some ((checksum cmd).extractLsb' 8 8) ∧
      (encodeFrame cmd)[6 + cmd.length]? = some ((checksum cmd).extractLsb' 0 8) := by
  simp [encodeFrame, headerBytes, bytesBE16, Nat.add_comm _ cmd.length]

end Sys2Proof.Machine

namespace Sys2Proof.Proofs

open Sys2Proof.Machine

/-- Settles O22: a frame is read exactly where its bytes lie, and what FRM.ENC stores are the bytes of the one frame with HEADER,
the true length and the true checksum. -/
theorem decodeInvertsEncode : Obligations.DecodeInvertsEncode := by
  refine ⟨fun s cmd hcmd hlen => ⟨_, hcmd.exec_frmEnc hlen, fun u hN hbytes => ?_⟩,
    fun u v s raw cmd _ hraw hdec hclean herr hheader hcheck hout hlen hpayload hcmd => ?_⟩
  · have hfield := requestOf_length_toNat hlen
    have hread : u.inBuf.readRange 0 (cmd.length + 7) = some (requestOf cmd).bytes := by
      rw [requestOf_bytes, Memory.readRange_eq_some]
      refine ⟨encodeFrame_length cmd, fun k hk => ?_⟩
      rw [Nat.zero_add, hbytes k (by rwa [encodeFrame_length] at hk), State.encoded_outByte hlen, List.getElem?_eq_getElem hk]
    have hframe : u.inBuf.frameAt cmd.length = some (requestOf cmd) :=
      (Memory.frameAt_iff_bytes u.inBuf (f := requestOf cmd) rfl).2 hread
    have hdec : exec .frmDec u = .next (u.decoded (requestOf cmd)) := by
      rw [← hfield] at hN hframe
      exact exec_frmDec_of_frameAt hN hframe
    have hpayload : ∀ k, (u.decoded (requestOf cmd)).outByte k = cmd[k]? :=
      State.decoded_outByte (f := requestOf cmd) (show cmd.length < 2 ^ 32 by omega) u
    refine ⟨_, hdec, rfl, ?_, fun k hk => ?_, fun k hk => ?_, ?_, rfl, rfl, rfl, requestOf_headerOk cmd, rfl,
      requestOf_checksumOk cmd⟩
    · exact State.decoded_outLen (requestOf cmd) u
    · rw [hpayload, List.getElem?_eq_getElem hk]
    · rw [hpayload, List.getElem?_eq_none hk]
    · have hwide : ((requestOf cmd).length.setWidth 32) = BitVec.ofNat 32 cmd.length := by
        rw [← BitVec.ofNat_toNat, hfield]
      exact congrArg some hwide
  · obtain ⟨f, hN, hframe, rfl⟩ := exec_frmDec_success hdec hclean herr
    have hfield := Memory.frameAt_payload_length hframe
    have hbound := f.length.isLt
    have hf : f = requestOf f.payload := f.eq_requestOf hheader hfield hcheck
    have hbytes : u.operand = some f.bytes := by
      rw [State.operand, State.operandLen, hN]
      exact (Memory.frameAt_iff_bytes _ hfield).1 hframe
    obtain rfl : raw = f.bytes := Option.some.inj (((u.operand_eq_some raw).2 hraw).symm.trans hbytes)
    obtain rfl : f.payload = cmd := by
      rw [State.decoded_outLen] at hout
      have hsame := congrArg BitVec.toNat (Option.some.inj hout)
      simp only [BitVec.toNat_ofNat] at hsame
      refine List.ext_getElem (by omega) fun k _ hk => Option.some.inj ?_
      rw [← hpayload k hk, State.decoded_outByte (by omega), List.getElem?_eq_getElem]
    rw [hf, requestOf_bytes]
    refine ⟨_, hcmd.exec_frmEnc hlen, encodeFrame_length _, fun k hk => ?_⟩
    rw [State.encoded_outByte hlen, List.getElem?_eq_getElem hk]

/-- Settles O17: the result is a function of the command alone, and its fields lie where R62 puts them. -/
theorem frmEncProperties : Obligations.FrmEncProperties := by
  refine ⟨fun s u cmd hs hu hlen => ⟨_, _, hs.exec_frmEnc hlen, hu.exec_frmEnc hlen, rfl, rfl, fun k => ?_⟩,
    fun s cmd hcmd hlen => ⟨_, hcmd.exec_frmEnc hlen, ?_, ?_, ?_⟩⟩
  · rw [State.encoded_outByte hlen, State.encoded_outByte hlen]
  · have hsize : 3 + 2 + cmd.length + 2 = (encodeFrame cmd).length := by rw [encodeFrame_length]; omega
    rw [hsize]
    rfl
  · obtain ⟨h3, h4⟩ := encodeFrame_length_field cmd
    refine ⟨_, _, (State.encoded_outByte hlen s 3).trans h3, (State.encoded_outByte hlen s 4).trans h4, ?_⟩
    rw [be16_bytes]
    exact requestOf_length_toNat hlen
  · obtain ⟨h5, h6⟩ := encodeFrame_check cmd
    refine ⟨_, _, (State.encoded_outByte hlen s _).trans h5, (State.encoded_outByte hlen s _).trans h6, fun p hp hread => ?_⟩
    obtain rfl : p = cmd := by
      refine List.ext_getElem hp fun k hk hk' => Option.some.inj ?_
      rw [← hread k hk, State.encoded_outByte hlen, encodeFrame_payload hk']
    exact be16_bytes _

/-- Settles O18: the frame of the empty command, byte by byte. -/
theorem pollFrame : Obligations.PollFrame := by
  intro s hN
  have hempty : s.operandIs [] := ⟨hN, fun k hk => absurd hk (Nat.not_lt_zero k)⟩
  have hbyte : ∀ k, (s.encoded []).outByte k = (encodeFrame [])[k]? := State.encoded_outByte (by decide) s
  exact ⟨_, hempty.exec_frmEnc (by decide), rfl, hbyte 0, hbyte 1, hbyte 2, hbyte 3, hbyte 4, hbyte 5, hbyte 6⟩

end Sys2Proof.Proofs
end

section
/-! The record parser's determinism (42_record_parser.md R88), what never rejects a frame (D9), and the results as the host reads
them. -/

open Sys2Proof.Claims

namespace Sys2Proof.Machine

/-! ### Frames and records of equal bytes -/

section
variable {m m' : Memory} {n : Nat}

theorem Memory.readRange_congr {a : Nat} (h : ∀ k < n, m'.read (a + k) = m.read (a + k)) :
    m'.readRange a n = m.readRange a n := by
  induction n generalizing a with
  | zero => rfl
  | succ n ih =>
    have htail : m'.readRange (a + 1) n = m.readRange (a + 1) n :=
      ih fun k hk => by rw [Nat.add_right_comm]; exact h (k + 1) (by omega)
    have hhead : m'.read a = m.read a := h 0 (by omega)
    simp only [Memory.readRange, hhead, htail]

theorem Memory.frameAt_congr (h : ∀ k < n + 7, m'.read k = m.read k) : m'.frameAt n = m.frameAt n := by
  have hpayload : m'.readRange 5 n = m.readRange 5 n := Memory.readRange_congr fun k hk => h _ (by omega)
  simp only [Memory.frameAt, Memory.readU24, Memory.readBE16, hpayload, h 0 (by omega), h 1 (by omega), h 2 (by omega),
    h 3 (by omega), h 4 (by omega), h (5 + n) (by omega), h (5 + n + 1) (by omega), Nat.zero_add, Nat.reduceAdd]

theorem Memory.recordAt_congr (h : ∀ k < 14, m'.read k = m.read k) : m'.recordAt = m.recordAt := by
  simp only [Memory.recordAt, Memory.readLE32, h 5 (by decide), h 6 (by decide), h 7 (by decide), h 8 (by decide),
    h 9 (by decide), h 10 (by decide), h 11 (by decide), Nat.reduceAdd]

end

/-- An operand that is given has no byte missing. -/
theorem State.operandIs.not_missing {s : State} {bs : List Byte} (h : s.operandIs bs) : ¬ operandMissing s := by
  rintro ⟨k, hk, hnone⟩
  rw [opLen, h.latchedLen_eq] at hk
  cases hnone.symm.trans (h.2 k hk)

/-- RSP.DEC on 14 bytes, all written (R85). -/
theorem exec_rspDec_of_not_missing {s : State} (h : ¬ operandMissing s) (hN : opLen s = 14) :
    ∃ f r, s.inBuf.frameAt 7 = some f ∧ s.inBuf.recordAt = some r ∧ exec .rspDec s = .next (s.parsed f r) := by
  obtain ⟨f, hf⟩ := frameAt_of_not_missing h hN
  obtain ⟨r, hr⟩ := recordAt_of_not_missing h hN
  exact ⟨f, r, hf, hr, (exec_rspDec s).trans (execRspDec_done hN hf hr)⟩

theorem State.parsed_reading (f : Frame) (r : WeightRecord) (s : State) :
    (s.parsed f r).reading =
      some { weightValue := r.weight.toInt, divisionValue := r.division.toInt, stable := r.stable } :=
  State.reading_of_cells rfl rfl rfl rfl

/-! ### What decides whether a decode succeeds (D9) -/

/-- RSP.DEC on bytes all written: how it ends is a function of their number (R85, D9). -/
theorem exec_rspDec_verdict {s : State} (h : ¬ operandMissing s) : ∃ t, exec .rspDec s = .next t ∧
    (t.status.err, t.status.errcode) =
      if Config.inCap < opLen s then (true, 3) else if opLen s ≠ 14 then (true, 1) else (false, 0) := by
  split
  next hlen => exact ⟨_, (exec_rspDec s).trans (execRspDec_lenRange hlen), rfl⟩
  next hlen =>
    split
    next hN => exact ⟨_, (exec_rspDec s).trans (execRspDec_wrongSize (Nat.not_lt.1 hlen) hN), rfl⟩
    next hN =>
      obtain ⟨f, r, -, -, hdone⟩ := exec_rspDec_of_not_missing h (not_not.1 hN)
      exact ⟨_, hdone, rfl⟩

/-- FRM.DEC on bytes all written: how it ends is a function of their number and of the length field (R82, D9). -/
theorem exec_frmDec_verdict {s : State} (h : ¬ operandMissing s) : ∃ t, exec .frmDec s = .next t ∧
    (t.status.err, t.status.errcode) =
      if Config.inCap < opLen s then (true, 3) else if opLen s < 7 then (true, 1)
      else if (s.inBuf.readBE16 3).map BitVec.toNat = some (opLen s - 7) then (false, 0) else (true, 1) := by
  split
  next hlen => exact ⟨_, (exec_frmDec s).trans (execFrmDec_lenRange hlen), rfl⟩
  next hlen =>
    split
    next hshort => exact ⟨_, (exec_frmDec s).trans (execFrmDec_short hshort), rfl⟩
    next h7 =>
      have h7 : 7 ≤ opLen s := Nat.not_lt.1 h7
      obtain ⟨f, hf⟩ := frameAt_of_not_missing h (n := opLen s - 7) (by omega)
      obtain ⟨-, hfield, -, -⟩ := (Memory.frameAt_eq_some _ _ _).1 hf
      split
      next heq =>
        have heq : f.length.toNat = opLen s - 7 := by simpa [hfield] using heq
        rw [← heq] at hf
        exact ⟨_, exec_frmDec_of_frameAt (heq ▸ (Nat.sub_add_cancel h7).symm) hf, rfl⟩
      next hne =>
        have hne : f.length.toNat ≠ opLen s - 7 := by simpa [hfield] using hne
        exact ⟨_, (exec_frmDec s).trans (execFrmDec_mismatch (Nat.not_lt.1 hlen) h7 hfield hne), rfl⟩

/-! ### What the host reads of a result (R17, R43, R51) -/

section
variable {s : State} (hb : s.status.busy = false)
include hb

theorem hostReads_of_regValue {r : Reg} {v : Word} (hv : s.regValue r = some v) : hostReads s r.offset r v :=
  State.hostAccess_readReg hv (by simp [hb])

theorem hostReadsOut_of_outByte {a : Nat} {v : Byte} (hv : s.outByte a = some v) (ha : a < Config.outCap) :
    hostReadsOut s a v :=
  State.hostAccess_readOut hv ha hb

end

/-- The registers that may be read in any state (R107). -/
theorem hostReads_of_readableWhileBusy {s : State} {r : Reg} {v : Word} (hr : r.readableWhileBusy = true)
    (hv : s.regValue r = some v) : hostReads s r.offset r v :=
  State.hostAccess_readReg hv fun _ => hr

end Sys2Proof.Machine

namespace Sys2Proof.Proofs

open Sys2Proof.Machine

/-- Settles O23: two states with one operand read the same frame and the same record, and a success writes every STATUS bit. -/
theorem rspDecIsDeterministicAndWhole : Obligations.RspDecIsDeterministicAndWhole := by
  refine ⟨fun s u raw hraw hs hu => ?_, fun s hN hlen => ?_⟩
  · have hsame : ∀ k < 14, u.inBuf.read k = s.inBuf.read k := fun k hk => (hu.2 k (hraw ▸ hk)).trans (hs.2 k (hraw ▸ hk)).symm
    obtain ⟨f, r, hf, hr, ht⟩ := exec_rspDec_of_not_missing hs.not_missing (hs.latchedLen_eq.trans hraw)
    have hv : exec .rspDec u = .next (u.parsed f r) := (exec_rspDec u).trans
      (execRspDec_done (hu.latchedLen_eq.trans hraw) ((Memory.frameAt_congr hsame).trans hf)
        ((Memory.recordAt_congr hsame).trans hr))
    refine ⟨_, _, ht, hv, rfl, rfl, rfl, ?_, fun q hq => ?_⟩
    · rw [State.parsed_reading]
      exact Option.some_ne_none _
    · cases q with
      | ctrl | status | inLen | crcAcc | outLen | hdrConst => exact absurd hq (by decide)
      | fHdr | fLen | fCrc | rEcho | rWeight | rDiv | rStable => rfl
  · have hinvalid : (s.raise .malformedFrame (some .rspDec)).status.rValid = false := by
      simp [clearsValid, clearsValidOnError]
    exact ⟨_, (exec_rspDec s).trans (execRspDec_wrongSize hlen hN), rfl, rfl, hinvalid, State.reading_of_invalid hinvalid⟩

/-- Settles O25: the two verdicts are functions of the number of bytes and, for FRM.DEC, of bytes 3 and 4. -/
theorem checksNeverReject : Obligations.ChecksNeverReject := by
  intro s u hN hs hu
  refine ⟨?_, fun h3 h4 => ?_⟩
  · obtain ⟨t, ht, hts⟩ := exec_rspDec_verdict hs
    obtain ⟨v, hv, hvs⟩ := exec_rspDec_verdict hu
    rw [← hN, ← hts] at hvs
    exact ⟨t, v, ht, hv, (congrArg Prod.fst hvs).symm, (congrArg Prod.snd hvs).symm⟩
  · have hfield : u.inBuf.readBE16 3 = s.inBuf.readBE16 3 := by rw [Memory.readBE16, Memory.readBE16, h3, h4]
    obtain ⟨t, ht, hts⟩ := exec_frmDec_verdict hs
    obtain ⟨v, hv, hvs⟩ := exec_frmDec_verdict hu
    rw [← hN, hfield, ← hts] at hvs
    exact ⟨t, v, ht, hv, (congrArg Prod.fst hvs).symm, (congrArg Prod.snd hvs).symm⟩

/-- Settles O57: each register reads as its cell, behind its valid bit where it has one. -/
theorem hostReadsReturnTheCells : Obligations.HostReadsReturnTheCells := by
  refine fun s => ⟨⟨?_, ?_, ?_, ?_⟩, fun hb => ?_, fun hb ho n hn => ?_,
    fun hb hf => ⟨fun v hv => ?_, fun v hv => ?_, fun v hv => ?_⟩,
    fun hb hr => ⟨fun v hv => ?_, fun v hv => ?_, fun v hv => ?_, fun v hv => ?_⟩⟩
  · exact hostReads_of_readableWhileBusy (r := .ctrl) rfl rfl
  · exact hostReads_of_readableWhileBusy (r := .status) rfl rfl
  · exact hostReads_of_readableWhileBusy (r := .inLen) rfl rfl
  · rw [u24_headerBytes]
    exact hostReads_of_readableWhileBusy (r := .hdrConst) rfl rfl
  · exact hostReads_of_regValue (r := .crcAcc) hb rfl
  · exact hostReads_of_regValue (r := .outLen) hb (by simp [State.regValue, ho, hn])
  · exact hostReads_of_regValue (r := .fHdr) hb (by simp [State.regValue, hf, hv])
  · exact hostReads_of_regValue (r := .fLen) hb (by simp [State.regValue, hf, hv])
  · exact hostReads_of_regValue (r := .fCrc) hb (by simp [State.regValue, hf, hv])
  · exact hostReads_of_regValue (r := .rEcho) hb (by simp [State.regValue, hr, hv])
  · exact hostReads_of_regValue (r := .rWeight) hb (by simp [State.regValue, hr, hv])
  · exact hostReads_of_regValue (r := .rDiv) hb (by simp [State.regValue, hr, hv])
  · exact hostReads_of_regValue (r := .rStable) hb (by simp [State.regValue, hr, hv])

/-- Settles O58: each success leaves BUSY = 0 and its results behind valid bits of 1, and `hostReads_of_regValue` says what a read
of them returns. -/
theorem resultsAsTheHostReadsThem : Obligations.ResultsAsTheHostReadsThem := by
  refine ⟨fun s => ⟨_, exec_crcInit s, hostReads_of_regValue (r := .crcAcc) rfl rfl⟩,
    fun b s => ⟨_, exec_crcByte b s, hostReads_of_regValue (r := .crcAcc) rfl rfl⟩, fun s bs hbs hlen => ?_,
    fun s cmd hcmd hlen => ?_, fun s g0 g1 g2 l1 l0 payload c1 c0 hraw hfield => ?_,
    fun s g0 g1 g2 l1 l0 echo w0 w1 w2 w3 dv st c1 c0 hraw => ?_⟩
  · have hN : s.latchedLen.toNat ≤ Config.inCap := hbs.latchedLen_eq.trans_le hlen
    exact ⟨_, (exec_crcBuf s).trans (execCrcBuf_done hN hbs), hostReads_of_regValue (r := .crcAcc) rfl rfl⟩
  · have hcap := Config.minCap_le_outCap
    refine ⟨_, hcmd.exec_frmEnc hlen, hostReads_of_regValue (r := .crcAcc) rfl rfl,
      hostReads_of_regValue (r := .outLen) rfl (State.encoded_outLen cmd s), fun k hk => ?_⟩
    have hbound : k < cmd.length + 7 := by rwa [requestFrame_length] at hk
    refine hostReadsOut_of_outByte rfl ?_ (by omega)
    rw [State.encoded_outByte hlen, encodeFrame_eq_requestFrame, List.getElem?_eq_getElem hk]
  · obtain ⟨hN, hholds⟩ := hraw
    have hframe := hholds.frameAt_eq
    have hbound := (be16 l1 l0).isLt
    have hcap := Config.minCap_le_outCap
    rw [← hfield] at hframe
    have hdec := exec_frmDec_of_frameAt (s := s)
      (f := { header := u24 g0 g1 g2, length := be16 l1 l0, payload, check := be16 c1 c0 }) (by simp [hN, hfield]) hframe
    refine ⟨_, hdec, hostReads_of_regValue (r := .crcAcc) rfl rfl,
      hostReads_of_regValue (r := .outLen) rfl (State.decoded_outLen _ s), hostReads_of_regValue (r := .fHdr) rfl rfl,
      hostReads_of_regValue (r := .fLen) rfl rfl, hostReads_of_regValue (r := .fCrc) rfl rfl,
      fun k hk => hostReadsOut_of_outByte rfl ?_ (by omega)⟩
    rw [State.decoded_outByte (show payload.length < 2 ^ 32 by omega), List.getElem?_eq_getElem hk]
  · obtain ⟨hN, hholds⟩ := hraw
    have hframe := hholds.frameAt_eq (payload := [echo, w0, w1, w2, w3, dv, st])
    have hdone := (exec_rspDec s).trans (execRspDec_done hN hframe hholds.recordAt_eq)
    refine ⟨_, hdone, hostReads_of_regValue (r := .crcAcc) rfl rfl, hostReads_of_regValue (r := .fHdr) rfl rfl,
      hostReads_of_regValue (r := .fLen) rfl rfl, hostReads_of_regValue (r := .fCrc) rfl rfl,
      hostReads_of_regValue (r := .rEcho) rfl rfl, hostReads_of_regValue (r := .rWeight) rfl ?_,
      hostReads_of_regValue (r := .rDiv) rfl rfl, hostReads_of_regValue (r := .rStable) rfl rfl,
      State.parsed_reading _ _ s⟩
    simp [State.regValue]

end Sys2Proof.Proofs
end

section
/-! The Checksum Engine (40_checksum.md R73, R75, R76, R78): its linearity, the engine that grows, and the byte-serial path. -/

open Sys2Proof.Claims

namespace Sys2Proof.Machine

/-! ### The engine is linear over exclusive or (R73) -/

/-- The polynomial, where an iteration exclusive-ors it in. -/
def polyIf (b : Bool) : Half := if b then poly else 0

theorem polyIf_xor (a b : Bool) : polyIf (a ^^ b) = polyIf a ^^^ polyIf b := by
  revert a b
  decide

theorem nextAcc_eq (temp acc : Half) : nextAcc temp acc = acc <<< 1 ^^^ polyIf (temp.msb ^^ acc.msb) := by
  rw [nextAcc, BitVec.msb_xor]
  cases temp.msb ^^ acc.msb
  · exact (BitVec.xor_zero).symm
  · rfl

theorem nextAcc_xor (t t' a a' : Half) : nextAcc (t ^^^ t') (a ^^^ a') = nextAcc t a ^^^ nextAcc t' a' := by
  have hbit : ((t ^^^ t').msb ^^ (a ^^^ a').msb) = ((t.msb ^^ a.msb) ^^ (t'.msb ^^ a'.msb)) := by
    simp [Bool.xor_left_comm]
  simp only [nextAcc_eq, hbit, polyIf_xor, BitVec.shiftLeft_xor_distrib]
  ac_rfl

theorem engineLoop_xor (n : Nat) (t t' a a' : Half) :
    engineLoop n (t ^^^ t') (a ^^^ a') = engineLoop n t a ^^^ engineLoop n t' a' := by
  induction n generalizing t t' a a' with
  | zero => rfl
  | succ n ih => rw [engineLoop_succ, BitVec.shiftLeft_xor_distrib, nextAcc_xor, ih, engineLoop_succ, engineLoop_succ]

theorem engineLoop_zero_xor (n : Nat) (t t' : Half) : engineLoop n (t ^^^ t') 0 = engineLoop n t 0 ^^^ engineLoop n t' 0 := by
  rw [← engineLoop_xor]
  rfl

theorem reductionTerm_xor (g h : Byte) : reductionTerm (g ^^^ h) = reductionTerm g ^^^ reductionTerm h := by
  rw [reductionTerm, BitVec.setWidth_xor, BitVec.shiftLeft_xor_distrib, engineLoop_zero_xor]
  rfl

/-- The mask of R72 keeps the upper byte in its place. -/
theorem and_highMask (crc : Half) : crc &&& (0xFF00 : Half) = (crc.extractLsb' 8 8).setWidth 16 <<< 8 := by
  have hmask : ∀ i < 16, (0xFF00 : Half).getLsbD i = decide (8 ≤ i) := by decide
  refine BitVec.eq_of_getLsbD_eq fun i hi => ?_
  rw [BitVec.getLsbD_and, hmask i hi, BitVec.getLsbD_shiftLeft, BitVec.getLsbD_setWidth, BitVec.getLsbD_extractLsb']
  by_cases h : 8 ≤ i
  · simp [h, hi, show i - 8 < 8 by omega, show i - 8 < 16 by omega]
  · simp [h, Nat.lt_of_not_le h]

/-- A shift by eight keeps the lower byte alone. -/
theorem shiftLeft_eight (crc : Half) : crc <<< 8 = (crc.extractLsb' 0 8).setWidth 16 <<< 8 := by
  refine BitVec.eq_of_getLsbD_eq fun i hi => ?_
  simp only [BitVec.getLsbD_shiftLeft, BitVec.getLsbD_setWidth, BitVec.getLsbD_extractLsb', Nat.zero_add]
  simp [show i - 8 < 8 by omega, show i - 8 < 16 by omega]

theorem crcStep_eq_reduction (crc : Half) (b : Byte) :
    crcStep crc b = reductionTerm (crc.extractLsb' 8 8) ^^^ ((crc.extractLsb' 0 8).setWidth 16 <<< 8) ^^^ b.setWidth 16 := by
  rw [crcStep, and_highMask, shiftLeft_eight crc]
  rfl

theorem crcStep_xor (c d : Half) (a b : Byte) : crcStep (c ^^^ d) (a ^^^ b) = crcStep c a ^^^ crcStep d b := by
  simp only [crcStep_eq_reduction, BitVec.extractLsb'_xor, reductionTerm_xor, BitVec.setWidth_xor,
    BitVec.shiftLeft_xor_distrib]
  ac_rfl

/-- While the accumulator is a byte, the byte step only shifts the next byte in. -/
theorem crcStep_of_byte (a b : Byte) : crcStep (a.setWidth 16) b = be16 a b := by
  have hterm : reductionTerm 0 = 0 := by decide
  have hhigh : (a.setWidth 16).extractLsb' 8 8 = (0 : Byte) := by
    apply BitVec.eq_of_toNat_eq
    have ha := a.isLt
    rw [BitVec.extractLsb'_toNat, BitVec.toNat_setWidth_of_le (by decide), Nat.shiftRight_eq_div_pow, Nat.div_eq_of_lt ha]
    rfl
  have hlow : (a.setWidth 16).extractLsb' 0 8 = a := by
    rw [BitVec.extractLsb'_setWidth_of_le (by decide), BitVec.extractLsb'_eq_self]
  rw [crcStep_eq_reduction, hhigh, hlow, hterm, be16]
  ext i hi
  by_cases h : i < 8
  · simp [h]
  · simp [h, BitVec.getLsbD_of_ge b i (Nat.le_of_not_lt h)]

theorem crcStep_zero (b : Byte) : crcStep 0 b = b.setWidth 16 := by
  rw [show (0 : Half) = (0 : Byte).setWidth 16 from rfl, crcStep_of_byte, be16]
  exact BitVec.zero_or

/-- The checksum of the bytewise exclusive or, from any two accumulators (R76 (iii)). -/
theorem foldl_crcStep_xor {s t : List Byte} (h : s.length = t.length) (c d : Half) :
    (List.zipWith (fun a b => a ^^^ b) s t).foldl crcStep (c ^^^ d) = s.foldl crcStep c ^^^ t.foldl crcStep d := by
  induction s generalizing t c d with
  | nil =>
    obtain rfl := List.length_eq_zero_iff.1 h.symm
    rfl
  | cons a s ih =>
    cases t with
    | nil => cases h
    | cons b t =>
      rw [List.zipWith_cons_cons, List.foldl_cons, List.foldl_cons, List.foldl_cons, crcStep_xor]
      exact ih (Nat.succ.inj h) _ _

/-! ### The engine on integers that grow (R75 (b)) -/

theorem testBit_fifteen (n : Nat) : n.testBit 15 = (BitVec.ofNat 16 n).msb := by
  rw [BitVec.msb_eq_getLsbD_last, BitVec.getLsbD_ofNat]
  rfl

theorem ofNat_shiftLeft {w : Nat} (n k : Nat) : BitVec.ofNat w (n <<< k) = BitVec.ofNat w n <<< k := by
  refine BitVec.eq_of_getLsbD_eq fun i hi => ?_
  rw [BitVec.getLsbD_ofNat, Nat.testBit_shiftLeft, BitVec.getLsbD_shiftLeft, BitVec.getLsbD_ofNat]
  by_cases h : i < k
  · simp [h, Nat.not_le.2 h]
  · simp [hi, h, Nat.not_lt.1 h, show i - k < w by omega]

/-- `(crc >> 8) << 8`, seen through its low 16 bits, is the mask of R72. -/
theorem ofNat_highMask (crc : Nat) : BitVec.ofNat 16 ((crc >>> 8) <<< 8) = BitVec.ofNat 16 crc &&& (0xFF00 : Half) := by
  have hbyte : (BitVec.ofNat 16 (crc >>> 8)).extractLsb' 0 8 = (BitVec.ofNat 16 crc).extractLsb' 8 8 := by
    refine BitVec.eq_of_getLsbD_eq fun i hi => ?_
    rw [BitVec.getLsbD_extractLsb', BitVec.getLsbD_extractLsb', BitVec.getLsbD_ofNat, BitVec.getLsbD_ofNat,
      Nat.testBit_shiftRight]
    simp [show i < 16 by omega, show 8 + i < 16 by omega]
  rw [ofNat_shiftLeft, shiftLeft_eight, hbyte, and_highMask]

/-- One iteration without a mask, seen through its low 16 bits, is one of R72. -/
theorem growingIteration_low (p : Nat × Nat) :
    BitVec.ofNat 16 (growingIteration p).1 = BitVec.ofNat 16 p.1 <<< 1 ∧
      BitVec.ofNat 16 (growingIteration p).2 = nextAcc (BitVec.ofNat 16 p.1) (BitVec.ofNat 16 p.2) := by
  refine ⟨ofNat_shiftLeft _ _, ?_⟩
  rw [growingIteration, nextAcc, ← BitVec.ofNat_xor, ← testBit_fifteen]
  split
  · rw [BitVec.ofNat_xor, ofNat_shiftLeft]
    rfl
  · exact ofNat_shiftLeft _ _

theorem growingIteration_iterate_low (n : Nat) (p : Nat × Nat) :
    BitVec.ofNat 16 (growingIteration^[n] p).2 = engineLoop n (BitVec.ofNat 16 p.1) (BitVec.ofNat 16 p.2) := by
  induction n generalizing p with
  | zero => rfl
  | succ n ih =>
    obtain ⟨htemp, hacc⟩ := growingIteration_low p
    rw [Function.iterate_succ_apply, ih, htemp, hacc, engineLoop_succ]

theorem growingStep_low (crc : Nat) (b : Byte) :
    BitVec.ofNat 16 (growingStep crc b) = crcStep (BitVec.ofNat 16 crc) b := by
  rw [growingStep, BitVec.ofNat_xor, BitVec.ofNat_xor, growingIteration_iterate_low, ofNat_highMask, ofNat_shiftLeft,
    BitVec.ofNat_toNat, crcStep]
  rfl

theorem foldl_growingStep_low (s : List Byte) (crc : Nat) :
    BitVec.ofNat 16 (s.foldl growingStep crc) = s.foldl crcStep (BitVec.ofNat 16 crc) := by
  induction s generalizing crc with
  | nil => rfl
  | cons b s ih => rw [List.foldl_cons, List.foldl_cons, ih, growingStep_low]

/-! ### The byte-serial path (R78) -/

/-- CRC.BYTE operations, one after another, leave the accumulator of R74's loop and the status of a success. -/
theorem feedBytes_agrees (bs : List Byte) (s : State) : ∃ u, feedBytes bs s.succeedKeeping = .next u ∧
    agrees u { s with crcAcc := bs.foldl crcStep s.crcAcc, status := plainSuccess s.status } := by
  induction bs generalizing s with
  | nil => exact ⟨_, rfl, rfl⟩
  | cons b bs ih => exact ih { s.succeedKeeping with crcAcc := crcStep s.crcAcc b }

end Sys2Proof.Machine

namespace Sys2Proof.Proofs

open Sys2Proof.Machine

/-- Settles O8: the mask and the shift of R72 take the two bytes of the accumulator apart, and the loop is linear. -/
theorem byteStepReduction : Obligations.ByteStepReduction :=
  ⟨crcStep_eq_reduction, reductionTerm_xor⟩

/-- Settles O10: an accumulator below 256 is only shifted, and the byte step is linear. -/
theorem checksumShortZeroAndLinear : Obligations.ChecksumShortZeroAndLinear := by
  refine ⟨checksum_nil, crcStep_zero, fun a b => ?_, fun s => ?_, fun s t h => foldl_crcStep_xor h 0 0⟩
  · have hpair : checksum [a, b] = be16 a b := by
      rw [← crcStep_of_byte, ← crcStep_zero]
      rfl
    rw [hpair, be16_toNat]
  · have hzero : crcStep 0 0 = 0 := crcStep_zero 0
    rw [checksum, List.foldl_cons, hzero]
    rfl

/-- Settles O11: each iteration that grows is one of R72 in its low 16 bits. -/
theorem growingEngineAgrees : Obligations.GrowingEngineAgrees :=
  ⟨growingStep_low, fun s => foldl_growingStep_low s 0⟩

/-- Settles O14: CRC.INIT starts the loop of R74 at 0, and each CRC.BYTE is one byte step. -/
theorem byteSerialPathAgrees : Obligations.ByteSerialPathAgrees := by
  intro bs s
  obtain ⟨u, hu, hagrees⟩ := feedBytes_agrees bs { s with crcAcc := 0 }
  exact ⟨_, u, exec_crcInit s, hu, hagrees⟩

end Sys2Proof.Proofs
end

section
/-! The checksum as a remainder over GF(2) (40_checksum.md R76): words and messages as polynomials, and what one iteration of the
engine and one byte do to them modulo G. -/

open Sys2Proof.Claims Polynomial

namespace Sys2Proof.Machine

/-- A word as a polynomial over GF(2): its bit `i` is the coefficient of `X ^ i`. -/
noncomputable def bitPoly {w : Nat} (v : BitVec w) : (ZMod 2)[X] :=
  ∑ i ∈ Finset.range w, if v.getLsbD i then X ^ i else 0

/-- G of R76. -/
noncomputable def genPoly : (ZMod 2)[X] := X ^ 16 + X ^ 12 + X ^ 5 + 1

/-- The message polynomial of R76. -/
noncomputable def msgPoly (s : List Byte) : (ZMod 2)[X] :=
  ∑ j ∈ Finset.range (8 * s.length), if bitOfBytes s j then X ^ j else 0

theorem genPoly_monic : genPoly.Monic := by
  unfold genPoly
  monicity!

theorem genPoly_natDegree : genPoly.natDegree = 16 := by
  unfold genPoly
  compute_degree!

/-! ### Words as polynomials -/

theorem degree_bitPoly_lt {w : Nat} (v : BitVec w) : (bitPoly v).degree < w := by
  refine mem_degreeLT.1 (Submodule.sum_mem _ fun i hi => mem_degreeLT.2 ?_)
  split
  · rw [degree_X_pow]
    exact_mod_cast Finset.mem_range.1 hi
  · rw [degree_zero]
    exact WithBot.bot_lt_coe w

/-- A coefficient of GF(2): a term that is there twice is not there. -/
theorem ite_xor_eq_add (a b : Bool) (p : (ZMod 2)[X]) :
    (if a ^^ b then p else 0) = (if a then p else 0) + (if b then p else 0) := by
  cases a <;> cases b <;> simp [CharTwo.add_self_eq_zero]

theorem bitPoly_xor {w : Nat} (u v : BitVec w) : bitPoly (u ^^^ v) = bitPoly u + bitPoly v := by
  simp only [bitPoly, BitVec.getLsbD_xor, ite_xor_eq_add, Finset.sum_add_distrib]

/-- Two bytes as one word: the first counts `X ^ 8` times (R11). -/
theorem bitPoly_be16 (x y : Byte) : bitPoly (be16 x y) = X ^ 8 * bitPoly x + bitPoly y := by
  have hlow : ∀ i < 8, (be16 x y).getLsbD i = y.getLsbD i := fun i hi => by
    rw [← be16_lo x y, BitVec.getLsbD_extractLsb', Nat.zero_add, be16_lo]
    simp [hi]
  have hhigh : ∀ i < 8, (be16 x y).getLsbD (8 + i) = x.getLsbD i := fun i hi => by
    rw [← be16_hi x y, BitVec.getLsbD_extractLsb', be16_hi]
    simp [hi]
  refine (Finset.sum_range_add _ 8 8).trans ?_
  rw [add_comm, bitPoly, bitPoly, Finset.mul_sum]
  congr 1
  · refine Finset.sum_congr rfl fun i hi => ?_
    rw [hhigh i (Finset.mem_range.1 hi), pow_add, mul_ite, mul_zero]
  · refine Finset.sum_congr rfl fun i hi => ?_
    rw [hlow i (Finset.mem_range.1 hi)]

@[simp] theorem bitPoly_zero {w : Nat} : bitPoly (0#w) = 0 := by
  simp [bitPoly]

theorem setWidth_eq_be16 (b : Byte) : b.setWidth 16 = be16 0 b := by
  simp [be16]

theorem shiftLeft_eq_be16 (b : Byte) : (b.setWidth 16 : Half) <<< 8 = be16 b 0 := by
  simp [be16]

/-- A word times X: the word shifted by one, and the bit that falls off. -/
theorem X_mul_bitPoly (v : Half) : X * bitPoly v = bitPoly (v <<< 1) + if v.msb then X ^ 16 else 0 := by
  have hmul : X * bitPoly v = ∑ i ∈ Finset.range 16, if v.getLsbD i then X ^ (i + 1) else 0 := by
    rw [bitPoly, Finset.mul_sum]
    refine Finset.sum_congr rfl fun i _ => ?_
    rw [mul_ite, mul_zero, pow_succ']
  have hshift : bitPoly (v <<< 1) = ∑ i ∈ Finset.range 15, if v.getLsbD i then X ^ (i + 1) else 0 := by
    refine (Finset.sum_range_succ' _ 15).trans ?_
    have hlow : (v <<< 1).getLsbD 0 = false := by simp
    rw [hlow, if_neg Bool.false_ne_true, add_zero]
    refine Finset.sum_congr rfl fun i hi => ?_
    have hi : i + 1 < 16 := Nat.succ_lt_succ (Finset.mem_range.1 hi)
    rw [BitVec.getLsbD_shiftLeft, Nat.add_sub_cancel]
    simp only [hi, decide_true, Bool.true_and, Nat.not_lt.2 (Nat.le_add_left 1 i), decide_false, Bool.not_false]
  rw [hmul, hshift, BitVec.msb_eq_getLsbD_last]
  exact Finset.sum_range_succ _ 15

/-- The polynomial of R72 is G without its leading term. -/
theorem bitPoly_poly_add_genPoly : bitPoly poly + genPoly = X ^ 16 := by
  have htwo : (2 : (ZMod 2)[X]) = 0 := CharTwo.two_eq_zero
  have hpoly : bitPoly poly = 1 + X ^ 5 + X ^ 12 := by
    simp [bitPoly, poly, Finset.sum_range_succ]
  rw [hpoly, genPoly]
  linear_combination (1 + X ^ 5 + X ^ 12) * htwo

/-! ### The engine modulo G (R72) -/

theorem bitPoly_polyIf (b : Bool) : bitPoly (polyIf b) + (if b then genPoly else 0) = if b then X ^ 16 else 0 := by
  cases b
  · simp [polyIf]
  · exact bitPoly_poly_add_genPoly

/-- One iteration multiplies TEMP + ACC by X, but for a multiple of G. -/
theorem X_mul_iteration (temp acc : Half) : X * (bitPoly acc + bitPoly temp) =
    bitPoly (nextAcc temp acc) + bitPoly (temp <<< 1) + (if temp.msb ^^ acc.msb then genPoly else 0) := by
  rw [mul_add, X_mul_bitPoly, X_mul_bitPoly, nextAcc_eq, bitPoly_xor]
  have hpoly := bitPoly_polyIf (temp.msb ^^ acc.msb)
  rw [ite_xor_eq_add temp.msb acc.msb (X ^ 16)] at hpoly
  linear_combination -hpoly

/-- A polynomial modulo G. -/
noncomputable def residue : (ZMod 2)[X] →+* AdjoinRoot genPoly := AdjoinRoot.mk genPoly

@[simp] theorem residue_genPoly : residue genPoly = 0 := AdjoinRoot.mk_self

/-- `n` iterations multiply TEMP + ACC by `X ^ n` modulo G. -/
theorem residue_engineLoop (n : Nat) (temp acc : Half) :
    residue (bitPoly (engineLoop n temp acc) + bitPoly (temp <<< n)) = residue (X ^ n * (bitPoly acc + bitPoly temp)) := by
  induction n generalizing temp acc with
  | zero => simp
  | succ n ih =>
    have hshift : temp <<< (n + 1) = (temp <<< 1) <<< n := by rw [← BitVec.shiftLeft_add, Nat.add_comm]
    have hgen : residue (if temp.msb ^^ acc.msb then genPoly else 0) = 0 := by
      split <;> simp
    rw [engineLoop_succ, hshift, ih, pow_succ, mul_assoc, X_mul_iteration, map_mul, map_mul,
      map_add residue (_ + _), hgen, add_zero]

/-- The reduction term of a byte is the byte times `X ^ 16`, modulo G (R73). -/
theorem residue_reductionTerm (h : Byte) : residue (bitPoly (reductionTerm h)) = residue (X ^ 16 * bitPoly h) := by
  have htemp : be16 h 0 <<< 8 = 0#16 := by
    rw [shiftLeft_eight (be16 h 0), be16_lo]
    rfl
  have hloop := residue_engineLoop 8 (be16 h 0) 0
  rw [htemp, bitPoly_be16] at hloop
  rw [reductionTerm, shiftLeft_eq_be16]
  simpa [← mul_assoc, ← pow_add] using hloop

/-- The byte step multiplies the accumulator by `X ^ 8` and adds the byte, modulo G. -/
theorem residue_crcStep (crc : Half) (b : Byte) :
    residue (bitPoly (crcStep crc b)) = residue (X ^ 8 * bitPoly crc + bitPoly b) := by
  have hcrc : bitPoly crc = X ^ 8 * bitPoly (crc.extractLsb' 8 8) + bitPoly (crc.extractLsb' 0 8) := by
    rw [← bitPoly_be16, be16_bytes]
  have hbyte : bitPoly (b.setWidth 16) = bitPoly b := by
    simp [setWidth_eq_be16, bitPoly_be16]
  have hshift : bitPoly ((crc.extractLsb' 0 8).setWidth 16 <<< 8 : Half) = X ^ 8 * bitPoly (crc.extractLsb' 0 8) := by
    simp [shiftLeft_eq_be16, bitPoly_be16]
  rw [crcStep_eq_reduction, bitPoly_xor, bitPoly_xor, hbyte, hshift, map_add, map_add, residue_reductionTerm, ← map_add,
    ← map_add, hcrc]
  exact congrArg residue (by ring)

/-! ### The message (R76) -/

theorem msgPoly_concat (s : List Byte) (b : Byte) : msgPoly (s ++ [b]) = X ^ 8 * msgPoly s + bitPoly b := by
  have hlow : ∀ j < 8, bitOfBytes (s ++ [b]) j = b.getLsbD j := fun j hj => by
    simp [bitOfBytes, Nat.div_eq_of_lt hj, Nat.mod_eq_of_lt hj]
  have hhigh : ∀ j, bitOfBytes (s ++ [b]) (8 + j) = bitOfBytes s j := fun j => by
    simp [bitOfBytes, show (8 + j) / 8 = j / 8 + 1 by omega]
  have hlen : 8 * (s ++ [b]).length = 8 + 8 * s.length := by
    rw [List.length_append, List.length_singleton]
    omega
  rw [msgPoly, hlen, Finset.sum_range_add, add_comm, msgPoly, bitPoly, Finset.mul_sum]
  congr 1
  · refine Finset.sum_congr rfl fun j _ => ?_
    rw [hhigh, pow_add, mul_ite, mul_zero]
  · refine Finset.sum_congr rfl fun j hj => ?_
    rw [hlow j (Finset.mem_range.1 hj)]

theorem residue_checksum (s : List Byte) : residue (bitPoly (checksum s)) = residue (msgPoly s) := by
  induction s using List.reverseRecOn with
  | nil => simp [msgPoly]
  | append_singleton s b ih =>
    rw [checksum_concat, residue_crcStep, msgPoly_concat, map_add, map_mul, ih, map_add, map_mul]

/-- The checksum has degree below 16 and the residue of the message, so it is the message's remainder. -/
theorem bitPoly_checksum (s : List Byte) : bitPoly (checksum s) = msgPoly s %ₘ genPoly := by
  have hdegree : (bitPoly (checksum s)).degree < genPoly.degree := by
    rw [degree_eq_natDegree genPoly_monic.ne_zero, genPoly_natDegree]
    exact degree_bitPoly_lt _
  rw [← (modByMonic_eq_self_iff genPoly_monic).2 hdegree]
  exact modByMonic_eq_of_dvd_sub genPoly_monic (AdjoinRoot.mk_eq_mk.1 (residue_checksum s))

end Sys2Proof.Machine

namespace Sys2Proof.Proofs

open Sys2Proof.Machine

/-- Settles O9: modulo G a byte step multiplies by `X ^ 8` and adds the byte, as appending a byte does to the message. -/
theorem checksumIsPolynomialRemainder : Obligations.ChecksumIsPolynomialRemainder := by
  refine fun s => ⟨bitPoly_checksum s, ?_⟩
  have hzeros : msgPoly (s ++ [0, 0]) = msgPoly s * X ^ 16 := by
    rw [show s ++ [0, 0] = (s ++ [0]) ++ [0] by simp, msgPoly_concat, msgPoly_concat]
    simp only [BitVec.ofNat_eq_ofNat, bitPoly_zero]
    ring
  exact (bitPoly_checksum (s ++ [0, 0])).trans (congrArg (· %ₘ genPoly) hzeros)

end Sys2Proof.Proofs
end

section
/-! Host accesses (10_state.md R17, R38, 20_memory.md R42, R43, 60_exceptions.md R97): what those that break a rule leave, and what
those that break none return. -/

open Sys2Proof.Claims

namespace Sys2Proof.Machine

/-! ### Accesses that break a rule -/

theorem Access.badAddress_mem_iff {x : Access} {s : State} : Fault.badAddress ∈ x.reasons s ↔ namesNoCell x := by
  rw [Access.badAddress_mem, Access.addressExists_eq_false]

theorem Access.noValueRead_mem_iff {x : Access} {s : State} : Fault.noValueRead ∈ x.reasons s ↔ readsEmptyCell s x := by
  rw [Access.noValueRead_mem, Access.readsNoValue_iff]

/-- Each broken rule is a reason; the read of log entry 12, which the busy window lets pass, names no cell. -/
theorem Access.exists_reason {x : Access} {s : State} (h : namesNoCell x ∨ breaksBusyWindow s x ∨ readsEmptyCell s x) :
    ∃ q, q ∈ x.reasons s := by
  obtain hname | ⟨hb, hforbidden⟩ | hread := h
  · exact ⟨_, Access.badAddress_mem_iff.2 hname⟩
  · by_cases hin : readsBeyondIn x
    · exact ⟨_, Access.badAddress_mem_iff.2 (namesNoCell_of_readsBeyondIn hin)⟩
    · have hwindow : x.allowedWhileBusy = false :=
        Bool.eq_false_iff.2 fun h => (Access.allowedWhileBusy_iff.1 h).elim hforbidden hin
      exact ⟨_, (Access.hostHazard_mem x s).2 ⟨hb, hwindow⟩⟩
  · exact ⟨_, Access.noValueRead_mem_iff.2 hread⟩

/-- An access that breaks a rule records its reason and changes FAULTS alone (R97, log entry 7). -/
theorem State.hostAccess_broken {x : Access} {s : State} {q : Fault} (hq : q ∈ x.reasons s) :
    q ∈ (s.hostAccess x).faults ∧ s.hostAccess x = { s with faults := (s.hostAccess x).faults } := by
  refine ⟨(State.mem_hostAccess_faults x s q).2 (.inr hq), ?_⟩
  rw [State.hostAccess_faults (List.ne_nil_of_mem hq)]

/-- An access that names no cell is BadAddress (R17, R42, R43). -/
theorem State.hostAccess_namesNoCell {x : Access} {s : State} (h : namesNoCell x) :
    Fault.badAddress ∈ (s.hostAccess x).faults ∧ s.hostAccess x = { s with faults := (s.hostAccess x).faults } :=
  State.hostAccess_broken (Access.badAddress_mem_iff.2 h)

/-- An access the busy window forbids is HostHazard (R107). -/
theorem State.hostAccess_hazard {x : Access} {s : State} (hb : s.status.busy = true) (hx : x.allowedWhileBusy = false) :
    Fault.hostHazard ∈ (s.hostAccess x).faults ∧ s.hostAccess x = { s with faults := (s.hostAccess x).faults } :=
  State.hostAccess_broken ((Access.hostHazard_mem x s).2 ⟨hb, hx⟩)

/-- A read of a cell that holds NOVALUE returns no number (R38). -/
theorem State.hostAccess_emptyCell {x : Access} {s : State} (h : readsEmptyCell s x) :
    Fault.noValueRead ∈ (s.hostAccess x).faults ∧ (s.hostAccess x).trace = s.trace := by
  obtain ⟨hmem, hframe⟩ := State.hostAccess_broken (Access.noValueRead_mem_iff.2 h)
  exact ⟨hmem, by rw [hframe]⟩

/-- A read of a cell that holds NOVALUE, where the busy window allows it, is NoValueRead alone. -/
theorem State.hostAccess_emptyCell_allowed {x : Access} {s : State} (h : readsEmptyCell s x)
    (hbusy : s.status.busy = true → x.allowedWhileBusy = true) :
    s.hostAccess x = { s with faults := addFault s.faults .noValueRead } := by
  have hexists : x.addressExists = true :=
    (Bool.not_eq_false _).mp fun hx => not_namesNoCell_of_readsEmptyCell h (Access.addressExists_eq_false.1 hx)
  have hwindow : (s.status.busy && !x.allowedWhileBusy) = false := by
    cases hb : s.status.busy with
    | false => rfl
    | true => simp [hbusy hb]
  have hreasons : x.reasons s = [.noValueRead] := by
    simp [Access.reasons, hexists, hwindow, Access.readsNoValue_iff.2 h]
  rw [State.hostAccess_faults (by simp [hreasons]), hreasons]
  rfl

/-! ### Accesses that break none -/

/-- While BUSY = 0 a byte written to IN below IN_CAP is stored (R42). -/
theorem State.hostAccess_writeIn {a : Nat} {s : State} (hb : s.status.busy = false) (ha : a < Config.inCap) (v : Byte) :
    s.hostAccess (.writeIn a 8 v) = { s with inBuf := s.inBuf.write a v } :=
  State.hostAccess_allowed ((Access.reasons_eq_nil _ s).2 ⟨Access.inCell_exists.2 ⟨rfl, ha⟩, by simp [hb], rfl⟩)

/-- While BUSY = 0 a byte written to OUT below OUT_CAP is ignored (R43). -/
theorem State.hostAccess_writeOut {a : Nat} {s : State} (hb : s.status.busy = false) (ha : a < Config.outCap) (v : Byte) :
    s.hostAccess (.writeOut a 8 v) = s :=
  State.hostAccess_allowed ((Access.reasons_eq_nil _ s).2 ⟨Access.outCell_exists.2 ⟨rfl, ha⟩, by simp [hb], rfl⟩)

/-- With O_VALID = 1 an OUT byte below OUT_LEN reads as what OUT holds there (R43). -/
theorem State.outByte_of_lt {s : State} {a : Nat} {n : Word} (ho : s.status.oValid = true) (hn : s.outLen = some n)
    (ha : a < n.toNat) : s.outByte a = s.outBuf.read a := by
  simp [State.outByte, ho, hn, ha]

/-- An OUT byte reads as NOVALUE with O_VALID = 0, and at and beyond OUT_LEN (R43). -/
theorem State.outByte_eq_none {s : State} {a : Nat}
    (h : s.status.oValid = false ∨ ∀ n, s.outLen = some n → n.toNat ≤ a) : s.outByte a = none := by
  obtain ho | hlen := h
  · exact State.outByte_of_invalid ho a
  · cases hn : s.outLen with
    | none => simp [State.outByte, hn]
    | some n => exact State.outByte_of_outLen_le hn (hlen n hn)

end Sys2Proof.Machine

namespace Sys2Proof.Proofs

open Sys2Proof.Machine

/-- Settles O35: the three reads are of empty cells, and the invariant puts a value behind every valid bit of 1. -/
theorem readsBehindValidBits : Obligations.ReadsBehindValidBits := by
  refine ⟨fun s r hr => State.hostAccess_emptyCell ⟨rfl, r, mem_registerTable.2 rfl, hr⟩,
    fun s a ha hn => State.hostAccess_emptyCell ⟨rfl, ha, hn⟩, fun s a ha hn => State.hostAccess_emptyCell ⟨rfl, ha, hn⟩,
    fun s hinv => ⟨fun ho => ?_, fun hf r hr => ?_, fun hv r hr => ?_⟩⟩
  · obtain ⟨n, hn, -, hbytes⟩ := hinv.results.outHeld ho
    refine ⟨n, by simp [State.regValue, ho, hn], fun a ha => ?_⟩
    rw [State.outByte_of_lt ho hn ha]
    exact Option.isSome_iff_exists.1 (hbytes a ha)
  · obtain ⟨hhdr, hlen, hcrc⟩ := hinv.results.frameHeld hf
    rw [← Option.isSome_iff_exists]
    obtain rfl | rfl | rfl : r = .fHdr ∨ r = .fLen ∨ r = .fCrc := by simpa using hr
    all_goals simp [State.regValue, hf, hhdr, hlen, hcrc]
  · obtain ⟨hecho, hweight, hdiv, hstable⟩ := hinv.results.recordHeld hv
    rw [← Option.isSome_iff_exists]
    obtain rfl | rfl | rfl | rfl : r = .rEcho ∨ r = .rWeight ∨ r = .rDiv ∨ r = .rStable := by simpa using hr
    all_goals simp [State.regValue, hv, hecho, hweight, hdiv, hstable]

/-- Settles O37: a byte below IN_CAP is a cell, and each access to it has its effect or breaks the one rule named. -/
theorem inBufferAccess : Obligations.InBufferAccess := by
  refine ⟨fun s a v hb ha => ?_, fun s a v ha hv => State.hostAccess_readIn hv ha, fun s a ha hn => ?_,
    fun s a w v hcell x hx => ?_, fun s a v hb => ?_, fun a => Memory.read_nil a⟩
  · exact ⟨State.hostAccess_writeIn hb ha v, Memory.read_write_same _ a v, fun k hk => Memory.read_write_other _ v hk,
      fun hwf => Memory.wf_write hwf a v⟩
  · exact State.hostAccess_emptyCell_allowed ⟨rfl, ha, hn⟩ fun _ => rfl
  · obtain rfl | rfl : x = .readIn a w ∨ x = .writeIn a w v := by simpa using hx
    · exact State.hostAccess_namesNoCell hcell
    · exact State.hostAccess_namesNoCell hcell
  · obtain ⟨hmem, hframe⟩ := State.hostAccess_hazard (x := .writeIn a 8 v) hb rfl
    exact ⟨hmem, by rw [hframe]⟩

/-- Settles O38: a byte below OUT_CAP is a cell, which reads as OUT's byte behind O_VALID and OUT_LEN. -/
theorem outBufferAccess : Obligations.OutBufferAccess := by
  refine ⟨fun s a n v hb ha ho hn hlt hv => ?_, fun s a hb ha hnone => ?_, fun s a v hb ha => State.hostAccess_writeOut hb ha v,
    fun s a w v hcell x hx => ?_, fun s a hb => ?_, fun a => ⟨State.outByte_of_invalid rfl a, Memory.read_nil a⟩⟩
  · exact State.hostAccess_readOut ((State.outByte_of_lt ho hn hlt).trans hv) ha hb
  · exact State.hostAccess_emptyCell_allowed ⟨rfl, ha, State.outByte_eq_none hnone⟩ (by simp [hb])
  · obtain rfl | rfl : x = .readOut a w ∨ x = .writeOut a w v := by simpa using hx
    · exact State.hostAccess_namesNoCell hcell
    · exact State.hostAccess_namesNoCell hcell
  · obtain ⟨hmem, hframe⟩ := State.hostAccess_hazard (x := .readOut a 8) hb rfl
    exact ⟨hmem, by rw [hframe]⟩

/-- Settles O55: each reason is raised by its own rule, whatever others are broken. -/
theorem everyBrokenRuleAddsItsReason : Obligations.EveryBrokenRuleAddsItsReason :=
  fun _ x hs => ⟨hs.badAddress_mem_iff x, hs.hostHazard_mem_iff x, hs.noValueRead_mem_iff x⟩

end Sys2Proof.Proofs
end

section
/-! What a turn and a step leave (00_scope.md R15, 10_state.md R18, R19, R25, R26, 60_exceptions.md R97, 70_reset_and_hazards.md
R107, R108): the writers of CTRL, IN_LEN, CRC_ACC and STATUS, the frame of a fault, and how a pending operation ends. -/

open Sys2Proof.Claims

namespace Sys2Proof.Machine

/-! ### What an access leaves -/

/-- While BUSY = 1 an access changes nothing but FAULTS and the host's trace (R107, log entry 7). -/
theorem State.hostAccess_busy (x : Access) {s : State} (hb : s.status.busy = true) :
    s.hostAccess x = { s with faults := (s.hostAccess x).faults, trace := (s.hostAccess x).trace } := by
  obtain ⟨fs, -, h⟩ | ⟨o, h⟩ | h | ⟨w, hidle, -⟩ | ⟨w, hidle, -⟩ | ⟨a, v, hidle, -⟩ := State.hostAccess_cases x s
  · rw [h]
  · rw [h]; rfl
  · rw [h]
  all_goals cases hb.symm.trans hidle

/-- No access writes CRC_ACC (R26), the host's program or the interleaving. -/
theorem State.hostAccess_keeps (x : Access) (s : State) : (s.hostAccess x).crcAcc = s.crcAcc ∧
    (s.hostAccess x).program = s.program ∧ (s.hostAccess x).turns = s.turns := by
  obtain ⟨fs, -, h⟩ | ⟨o, h⟩ | h | ⟨w, -, -, h⟩ | ⟨w, -, -, h⟩ | ⟨a, v, -, -, -, h⟩ := State.hostAccess_cases x s
  all_goals rw [h]; exact ⟨rfl, rfl, rfl⟩

/-- CTRL is written by a command alone (R18). -/
theorem State.hostAccess_ctrl (x : Access) (s : State) : (s.hostAccess x).ctrl = s.ctrl ∨
    ∃ w, s.status.busy = false ∧ x = .writeReg Reg.ctrl.offset 32 w ∧ (s.hostAccess x).ctrl = w := by
  obtain ⟨fs, -, h⟩ | ⟨o, h⟩ | h | ⟨w, hb, hx, h⟩ | ⟨w, -, -, h⟩ | ⟨a, v, -, -, -, h⟩ := State.hostAccess_cases x s
  case inr.inr.inr.inl => exact .inr ⟨w, hb, hx, by rw [h]; rfl⟩
  all_goals rw [h]; exact .inl rfl

/-- IN_LEN is written by a write of IN_LEN alone, while BUSY = 0 (R25, R107). -/
theorem State.hostAccess_inLen_cases (x : Access) (s : State) : (s.hostAccess x).inLen = s.inLen ∨
    ∃ w, s.status.busy = false ∧ x = .writeReg Reg.inLen.offset 32 w ∧ (s.hostAccess x).inLen = w := by
  obtain ⟨fs, -, h⟩ | ⟨o, h⟩ | h | ⟨w, -, -, h⟩ | ⟨w, hb, hx, h⟩ | ⟨a, v, -, -, -, h⟩ := State.hostAccess_cases x s
  case inr.inr.inr.inr.inl => exact .inr ⟨w, hb, hx, by rw [h]⟩
  all_goals rw [h]; exact .inl rfl

/-- An access after which FAULTS is not empty, where it was, changed FAULTS alone (log entry 7). -/
theorem State.hostAccess_of_not_clean {x : Access} {s : State} (hs : s.clean) (h : ¬ (s.hostAccess x).clean) :
    s.hostAccess x = { s with faults := (s.hostAccess x).faults } := by
  obtain ⟨q, hq⟩ := List.exists_mem_of_ne_nil _ h
  obtain ⟨-, hframe⟩ := State.hostAccess_broken (hs.mem_hostAccess_faults.1 hq)
  exact hframe

/-! ### What a turn of the host leaves -/

theorem State.hostDoes_keeps (x : Access) (p : List HostStmt) (s : State) : (s.hostDoes x p).crcAcc = s.crcAcc ∧
    (s.hostDoes x p).program = p ∧ (s.hostDoes x p).turns = s.turns :=
  State.hostAccess_keeps x { s with program := p }

theorem State.hostTurn_turns (s : State) : s.hostTurn.turns = s.turns := by
  obtain h | ⟨p, h⟩ | ⟨p, x, h⟩ := s.hostTurn_cases
  · rw [h]
  · rw [h]; rfl
  · rw [h]
    obtain ⟨-, -, hturns⟩ := State.hostAccess_keeps x { s with program := p }
    exact hturns

/-- Only RESET makes CRC_ACC other than it was in a turn of the host (R26). -/
theorem State.hostTurn_crcAcc (s : State) :
    s.hostTurn.crcAcc = s.crcAcc ∨ ∃ rest, s.program = .reset :: rest ∧ s.hostTurn.crcAcc = 0 := by
  obtain h | ⟨rest, hp, h⟩ | ⟨x, p, h, -⟩ := s.hostTurn_access_cases
  · rw [h]; exact .inl rfl
  · rw [h]; exact .inr ⟨rest, hp, rfl⟩
  · rw [h]
    obtain ⟨hcrc, -, -⟩ := s.hostDoes_keeps x p
    exact .inl hcrc

/-- A turn of the host does not put a RESET into a program that holds none. -/
theorem State.hostTurn_reset_not_mem {s : State} (h : HostStmt.reset ∉ s.program) : HostStmt.reset ∉ s.hostTurn.program := by
  have hdoes : ∀ x p, HostStmt.reset ∉ p → HostStmt.reset ∉ (s.hostDoes x p).program := fun x p hp => by
    obtain ⟨-, hprogram, -⟩ := s.hostDoes_keeps x p
    rwa [hprogram]
  rcases hp : s.program with - | ⟨x | - | - | - | ⟨a, n⟩, rest⟩
  all_goals simp only [hp, List.mem_cons, not_or] at h
  · rw [State.hostTurn_nil hp, hp]; exact List.not_mem_nil
  · rw [State.hostTurn_access hp]; exact hdoes _ _ h.2
  · exact absurd trivial h.1
  · rw [State.hostTurn_wait hp]
    refine hdoes _ _ ?_
    split
    · simp [h.2]
    · exact h.2
  · rw [State.hostTurn_copyOut hp]
    refine hdoes _ _ ?_
    cases s.regValue .outLen <;> simp [h.2]
  · by_cases hlt : a < n
    · rw [State.hostTurn_copyFrom hp hlt]
      refine hdoes _ _ ?_
      cases s.outByte a <;> simp [HostStmt.wrb, h.2]
    · rw [State.hostTurn_copyFrom_end hp hlt]; exact hdoes _ _ h.2

/-- Only a command and RESET make CTRL other than it was in a turn of the host (R18). -/
theorem State.hostTurn_ctrl (s : State) : s.hostTurn.ctrl = s.ctrl ∨
    (∃ w rest, s.program = .wr .ctrl w :: rest ∧ s.status.busy = false ∧ s.hostTurn.ctrl = w) ∨
    (∃ rest, s.program = .reset :: rest ∧ s.hostTurn.ctrl = 0) := by
  obtain h | ⟨rest, hp, h⟩ | ⟨x, p, h, hx⟩ := s.hostTurn_access_cases
  · rw [h]; exact .inl rfl
  · rw [h]; exact .inr (.inr ⟨rest, hp, rfl⟩)
  · rw [h]
    obtain hsame | ⟨w, hb, rfl, hw⟩ := State.hostAccess_ctrl x { s with program := p }
    · exact .inl hsame
    · obtain ⟨rest, hp⟩ | hread | ⟨a, n, v, rest, -, hcopy⟩ := hx
      · exact .inr (.inl ⟨w, rest, hp, hb, hw⟩)
      · exact absurd hread id
      · cases hcopy

/-- Only a write of IN_LEN, the end of a COPYOUT and RESET make IN_LEN other than it was in a turn of the host (R25, R69). -/
theorem State.hostTurn_inLen (s : State) : s.hostTurn.inLen = s.inLen ∨
    (∃ w rest, s.program = .wr .inLen w :: rest ∧ s.status.busy = false ∧ s.hostTurn.inLen = w) ∨
    (∃ a n rest, s.program = .copyFrom a n :: rest ∧ s.status.busy = false ∧ n ≤ a ∧
      s.hostTurn.inLen = BitVec.ofNat 32 n) ∨
    (∃ rest, s.program = .reset :: rest ∧ s.hostTurn.inLen = 0) := by
  obtain h | ⟨rest, hp, h⟩ | ⟨x, p, h, hx⟩ := s.hostTurn_access_cases
  · rw [h]; exact .inl rfl
  · rw [h]; exact .inr (.inr (.inr ⟨rest, hp, rfl⟩))
  · obtain hsame | ⟨w, hb, rfl, hw⟩ := State.hostAccess_inLen_cases x { s with program := p }
    · rw [h]; exact .inl hsame
    · obtain ⟨rest, hp⟩ | hread | ⟨a, n, v, rest, hp, -⟩ := hx
      · rw [h]; exact .inr (.inl ⟨w, rest, hp, hb, hw⟩)
      · exact absurd hread id
      · by_cases hlt : a < n
        · rw [State.hostTurn_copyFrom hp hlt]
          exact .inl (State.hostAccess_inLen (fun w hw => by cases hw) _)
        · rw [State.hostTurn_copyFrom_end hp hlt]
          have hwrite : (s.hostDoes (.writeReg Reg.inLen.offset 32 (BitVec.ofNat 32 n)) rest).inLen = BitVec.ofNat 32 n :=
            congrArg State.inLen (State.hostAccess_writeReg (r := .inLen) (s := { s with program := rest }) hb)
          exact .inr (.inr (.inl ⟨a, n, rest, hp, hb, Nat.not_lt.1 hlt, hwrite⟩))

/-! ### What a completion leaves -/

/-- A success writes neither CTRL nor IN_LEN: only the host does (R18, R25). -/
theorem ExecSuccess.keeps {s t : State} {i : Instr} (h : ExecSuccess s t i) : t.ctrl = s.ctrl ∧ t.inLen = s.inLen := by
  cases i with
  | crcInit => subst h; exact ⟨rfl, rfl⟩
  | crcByte b => subst h; exact ⟨rfl, rfl⟩
  | crcBuf => obtain ⟨bs, -, -, rfl⟩ := h; exact ⟨rfl, rfl⟩
  | frmEnc => obtain ⟨cmd, -, -, rfl⟩ := h; exact ⟨rfl, rfl⟩
  | frmDec => obtain ⟨f, -, -, rfl⟩ := h; exact ⟨rfl, rfl⟩
  | rspDec => obtain ⟨f, r, -, -, -, rfl⟩ := h; exact ⟨rfl, rfl⟩

/-- A completion raises an error, meets NOVALUE, or is the success of the operation the word names. -/
theorem State.codecComplete_ends {s t : State} (h : s.codecComplete = .next t) :
    (∃ e op, t = s.raise e op) ∨ t = s.modelFault .noValueRead ∨ ∃ i, decode s.pend = .ok i ∧ ExecSuccess s t i := by
  obtain rfl | ⟨i, hi, hexec⟩ := State.codecComplete_cases h
  · exact .inl ⟨_, _, rfl⟩
  · obtain ⟨e, -, rfl⟩ | rfl | hs := exec_next_cases hexec
    · exact .inl ⟨_, _, rfl⟩
    · exact .inr (.inl rfl)
    · exact .inr (.inr ⟨i, hi, hs⟩)

theorem State.codecComplete_keeps {s t : State} (h : s.codecComplete = .next t) : t.ctrl = s.ctrl ∧ t.inLen = s.inLen := by
  obtain ⟨e, op, rfl⟩ | rfl | ⟨i, -, hs⟩ := State.codecComplete_ends h
  · exact ⟨rfl, rfl⟩
  · exact ⟨rfl, rfl⟩
  · exact hs.keeps

/-! ### The layout of STATUS (R19) -/

/-- Above its own bits a field is 0. -/
theorem getLsbD_fieldAt_of_ge {n lo k : Nat} (v : BitVec n) (h : lo + n ≤ k) : (fieldAt lo v).getLsbD k = false := by
  rw [fieldAt, BitVec.getLsbD_shiftLeft, BitVec.getLsbD_setWidth, BitVec.getLsbD_of_ge v (k - lo) (by omega), Bool.and_false,
    Bool.and_false]

theorem Status.errcode_word (st : Status) : st.word.extractLsb' 4 4 = st.errcode := by
  refine BitVec.eq_of_getLsbD_eq fun i hi => ?_
  rw [BitVec.getLsbD_extractLsb']
  interval_cases i <;> simp [Status.word, bitAt, fieldAt]

/-- The bits from 15 up lie above every field. -/
theorem Status.word_high (st : Status) {k : Nat} (hk : 15 ≤ k) : st.word.getLsbD k = false := by
  simp (disch := omega) only [Status.word, bitAt, BitVec.getLsbD_or, getLsbD_fieldAt_of_ge, Bool.or_false]

/-! ### How a pending operation ends (R108) -/

/-- What ends a pending operation in `t`: BUSY = 0, or a model fault; and with no model fault and no RESET in the program of `s`,
a completion. -/
def Ended (s t : State) : Prop :=
  (t.status.busy = false ∨ ¬ t.clean) ∧
    (HostStmt.reset ∉ s.program → t.clean → t.status.busy = false ∧ t.status.done = true)

theorem run_next {s t : State} (h : step s = .next t) (k : Nat) : run (k + 1) s = run k t :=
  core_run_next h k

/-- The codec's turn ends the operation. -/
theorem State.codecAbout.ended {s t : State} (h : s.codecAbout) (ht : step s = .next t) : Ended s t := by
  by_cases hclean : t.clean
  · obtain ⟨hdone, hbusy⟩ := h.step_status ht hclean
    exact ⟨.inl hbusy, fun _ _ => ⟨hbusy, hdone⟩⟩
  · exact ⟨.inr hclean, fun _ hclean' => absurd hclean' hclean⟩

/-- A turn of the host leaves the operation pending, unless it is RESET. -/
theorem State.hostTurn_pending {s : State} (hb : s.status.busy = true) :
    s.hostTurn.status.busy = true ∨ Ended s s.hostTurn := by
  obtain hsame | ⟨rest, hp, hreset⟩ | ⟨hidle, -⟩ := s.hostTurn_status
  · rw [hsame]
    exact .inl hb
  · have hmem : HostStmt.reset ∈ s.program := hp ▸ List.mem_cons_self
    exact .inr ⟨.inl (by rw [hreset]; rfl), fun hnone => absurd hmem hnone⟩
  · cases hb.symm.trans hidle

/-- Within one turn more than `turns` holds, a pending operation has ended. -/
theorem pending_ends {s : State} (hs : s.clean) (hb : s.status.busy = true) :
    ∃ k ≤ s.turns.length + 1, ∃ t, run k s = .next t ∧ Ended s t := by
  obtain ⟨t, ht⟩ := step_next_of_clean hs
  induction hl : s.turns generalizing s t with
  | nil =>
    have hmover : s.mover = .codec := by rw [State.mover, hl]; exact if_pos hb
    exact ⟨1, by simp, t, run_next ht 0, State.codecAbout.ended ⟨hs, hmover, hb⟩ ht⟩
  | cons a l ih =>
    have hmover : s.mover = a := by rw [State.mover, hl]
    cases a with
    | codec => exact ⟨1, by simp, t, run_next ht 0, State.codecAbout.ended ⟨hs, hmover, hb⟩ ht⟩
    | host =>
      obtain rfl : s.takeTurn.hostTurn = t :=
        Host.Outcome.next.inj ((State.turn_host hmover).symm.trans ((step_clean hs).symm.trans ht))
      by_cases hclean : s.takeTurn.hostTurn.clean
      · obtain hbusy | hended := State.hostTurn_pending (s := s.takeTurn) hb
        · obtain ⟨u, hu⟩ := step_next_of_clean hclean
          have hturns : s.takeTurn.hostTurn.turns = l := by rw [State.hostTurn_turns, State.takeTurn_turns, hl, List.tail_cons]
          obtain ⟨k, hk, v, hv, hend, hcomplete⟩ := ih hclean hbusy u hu hturns
          exact ⟨k + 1, by simpa using hk, v, (run_next ht k).trans hv, hend,
            fun hnone => hcomplete (State.hostTurn_reset_not_mem (s := s.takeTurn) hnone)⟩
        · exact ⟨1, by simp, _, run_next ht 0, hended⟩
      · exact ⟨1, by simp, _, run_next ht 0, .inr hclean, fun _ hclean' => absurd hclean' hclean⟩

end Sys2Proof.Machine

namespace Sys2Proof.Proofs

open Sys2Proof.Machine

/-- Settles O6: a step of a clean state is a turn of the agent that moves. -/
theorem stepRunsTheDecodedOperation : Obligations.StepRunsTheDecodedOperation := by
  refine ⟨fun s i h hi => h.step_of_decode hi, fun s hs hm hb => ?_, fun s x rest h => h.step_access, fun s hs hm hp => ?_,
    fun s a l ht => ?_, fun s ht => ?_⟩
  · rw [step_clean hs, State.turn_codec hm, State.codecTurn, State.takeTurn_status, hb]
    rfl
  · rw [step_clean hs, State.turn_host hm, State.hostTurn_nil (s := s.takeTurn) hp]
  · simp [State.mover, State.takeTurn, ht]
  · rw [State.mover, ht]
    cases s.status.busy <;> simp

/-- Settles O30: an access, an error and a model fault leave CRC_ACC; RESET writes 0, and a success is of a legal word. -/
theorem crcAccHasNoOtherWriter : Obligations.CrcAccHasNoOtherWriter := by
  intro s t hstep hne
  obtain ⟨hclean, ⟨hm, rfl⟩ | ⟨-, -, rfl⟩ | ⟨hm, hb, hcomplete⟩⟩ := step_cases hstep
  · obtain hsame | ⟨rest, hp, hzero⟩ := s.takeTurn.hostTurn_crcAcc
    · exact absurd hsame hne
    · exact .inr ⟨rest, ⟨hclean, hm, hp⟩, hzero⟩
  · exact absurd rfl hne
  · obtain ⟨e, op, rfl⟩ | rfl | ⟨i, hi, hs⟩ := State.codecComplete_ends hcomplete
    · exact absurd rfl hne
    · exact absurd rfl hne
    · obtain ⟨-, -, herr, hfaults⟩ := hs.completed
      have hlegal : ¬ illegalWord s.pend := decode_eq_ok_iff.1 hi ▸ not_illegalWord_encode i
      exact .inl ⟨⟨hclean, hm, hb⟩, hfaults.trans hclean, herr, hlegal⟩

/-- Settles O31: the fields do not overlap, and by `step_status_cases` only a completion, a command and RESET write STATUS. -/
theorem statusLayout : Obligations.StatusLayout := by
  refine ⟨fun st => ?_, fun s w hb => State.hostAccess_writeReg (r := .status) hb, fun s t hstep hne => ?_⟩
  · refine ⟨?_, ?_, ?_, ?_, st.errcode_word, ?_, ?_, ?_, ?_, ?_, ?_, ?_, fun k hk => st.word_high hk⟩
    all_goals simp [Status.word, bitAt, fieldAt]
  · obtain h | h | ⟨rest, h, -⟩ | ⟨-, w, rest, h⟩ := step_status_cases hstep
    · exact absurd h hne
    · exact .inl h
    · exact .inr (.inr ⟨rest, h⟩)
    · exact .inr (.inl ⟨w, rest, h⟩)

/-- Settles O42: a turn of the host that is not RESET is at most one access, and while BUSY = 1 an access leaves the block. -/
theorem pendingOperationIsUndisturbed : Obligations.PendingOperationIsUndisturbed := by
  intro s t hb hm hstep hreset
  obtain ⟨hclean, ⟨-, rfl⟩ | ⟨hcodec, -⟩ | ⟨hcodec, -⟩⟩ := step_cases hstep
  · obtain h | ⟨rest, hp, -⟩ | ⟨x, p, h, -⟩ := s.takeTurn.hostTurn_access_cases
    · rw [h]; rfl
    · exact absurd ⟨hclean, hm, hp⟩ (hreset rest)
    · obtain ⟨-, hprogram, -⟩ := s.takeTurn.hostDoes_keeps x p
      rw [h, hprogram]
      exact State.hostAccess_busy x (s := { s.takeTurn with program := p }) hb
  · cases hm.symm.trans hcodec
  · cases hm.symm.trans hcodec

/-- Settles O46: the codec's first turn ends the operation, if RESET or a model fault of a host turn before it has not. -/
theorem pendingOperationCompletes : Obligations.PendingOperationCompletes :=
  fun _ hs hb => pending_ends hs hb

/-- Settles O48: WAIT is a read of STATUS, which R107 allows at any time. -/
theorem waitPollsStatus : Obligations.WaitPollsStatus := by
  rintro s rest ⟨hclean, hm, hp⟩
  rw [step_clean hclean, State.turn_host hm, State.hostTurn_wait (s := s.takeTurn) hp]
  exact congrArg Host.Outcome.next (State.hostAccess_readReg (r := .status) rfl fun _ => rfl)

/-- Settles O51: RESET leaves the program after it, and no more of the host is its own. -/
theorem resetLeavesTheHost : Obligations.ResetLeavesTheHost :=
  fun _ _ h => ⟨_, h.step_reset, rfl, rfl, rfl⟩

/-- Settles O52: a clean state takes its turn, which always answers a next state, and a recorded reason is the fault. -/
theorem stepStopsExactlyOnARecordedFault : Obligations.StepStopsExactlyOnARecordedFault := by
  intro s
  refine ⟨⟨step_next_of_clean, fun ⟨t, ht⟩ => ?_⟩, ⟨fun hs => ?_, fun ⟨r, hr⟩ hs => ?_⟩, step_not_refused s⟩
  · obtain ⟨hs, -⟩ := step_cases ht
    exact hs
  · obtain ⟨q, qs, hf⟩ := List.exists_cons_of_ne_nil hs
    exact ⟨q, step_of_faults hf⟩
  · obtain ⟨t, ht⟩ := step_next_of_clean hs
    cases hr.symm.trans ht

/-- Settles O54: an access with a reason, and a completion that meets NOVALUE, write FAULTS alone, and no other step leaves a
reason there. -/
theorem faultingAccessLeavesTheRest : Obligations.FaultingAccessLeavesTheRest := by
  refine ⟨fun s x h => ?_, fun s x hb => State.hostAccess_busy x hb, fun s t hstep hfault => ?_⟩
  · obtain ⟨q, hq⟩ := Access.exists_reason h
    obtain ⟨-, hframe⟩ := State.hostAccess_broken hq
    exact hframe
  · obtain ⟨hclean, ⟨-, rfl⟩ | ⟨-, -, rfl⟩ | ⟨-, -, hcomplete⟩⟩ := step_cases hstep
    · obtain h | ⟨rest, -, h⟩ | ⟨x, p, h, -⟩ := s.takeTurn.hostTurn_access_cases
      all_goals rw [h] at hfault ⊢
      · exact absurd hclean hfault
      · exact absurd hclean hfault
      · obtain ⟨-, hprogram, -⟩ := s.takeTurn.hostDoes_keeps x p
        rw [hprogram]
        exact State.hostAccess_of_not_clean (s := { s.takeTurn with program := p }) hclean hfault
    · exact absurd hclean hfault
    · obtain ⟨e, op, rfl⟩ | rfl | ⟨i, -, hs⟩ := State.codecComplete_ends hcomplete
      · exact absurd hclean hfault
      · rfl
      · obtain ⟨-, -, -, hfaults⟩ := hs.completed
        exact absurd (hfaults.trans hclean) hfault

/-- Settles O56: both operations have one branch, a success, and CRC.BYTE's reads CRC_ACC and STATUS alone. -/
theorem crcInitAndCrcByteComplete : Obligations.CrcInitAndCrcByteComplete :=
  ⟨fun s => ⟨_, exec_crcInit s, rfl, rfl, rfl, rfl⟩, fun b s => ⟨_, exec_crcByte b s, rfl, rfl, rfl, rfl⟩,
    fun b s _ _ _ => ⟨_, _, exec_crcByte b s, exec_crcByte b _, rfl, rfl⟩⟩

/-- Settles O59: of the moves of the host only the write itself, the end of a COPYOUT and RESET write CTRL or IN_LEN, and a
completion writes neither. -/
theorem ctrlAndInLenHoldTheLastWord : Obligations.CtrlAndInLenHoldTheLastWord := by
  refine ⟨fun s w rest hb => ⟨fun h => ?_, fun h => ?_⟩, fun s t hstep hne => ?_, fun s t hstep hne => ?_⟩
  · exact ⟨_, h.step_wr hb, rfl, rfl, hostReads_of_readableWhileBusy (r := .ctrl) rfl rfl⟩
  · exact ⟨_, h.step_wr hb, rfl, rfl, hostReads_of_readableWhileBusy (r := .inLen) rfl rfl⟩
  · obtain ⟨hclean, ⟨hm, rfl⟩ | ⟨-, -, rfl⟩ | ⟨-, -, hcomplete⟩⟩ := step_cases hstep
    · obtain hsame | ⟨w, rest, hp, hb, hw⟩ | ⟨rest, hp, hzero⟩ := s.takeTurn.hostTurn_ctrl
      · exact absurd hsame hne
      · exact .inl ⟨w, rest, ⟨hclean, hm, hp⟩, hb, hw⟩
      · exact .inr ⟨rest, ⟨hclean, hm, hp⟩, hzero⟩
    · exact absurd rfl hne
    · obtain ⟨hctrl, -⟩ := State.codecComplete_keeps hcomplete
      exact absurd hctrl hne
  · obtain ⟨hclean, ⟨hm, rfl⟩ | ⟨-, -, rfl⟩ | ⟨-, -, hcomplete⟩⟩ := step_cases hstep
    · obtain hsame | ⟨w, rest, hp, hb, hw⟩ | ⟨a, n, rest, hp, hb, hle, hn⟩ | ⟨rest, hp, hzero⟩ := s.takeTurn.hostTurn_inLen
      · exact absurd hsame hne
      · exact .inl ⟨w, rest, ⟨hclean, hm, hp⟩, hb, hw⟩
      · exact .inr (.inl ⟨a, n, rest, ⟨hclean, hm, hp⟩, hb, hle, hn⟩)
      · exact .inr (.inr ⟨rest, ⟨hclean, hm, hp⟩, hzero⟩)
    · exact absurd rfl hne
    · obtain ⟨-, hlen⟩ := State.codecComplete_keeps hcomplete
      exact absurd hlen hne

end Sys2Proof.Proofs
end

section
/-! COPYOUT (30_encoding.md R69), run with no other turn in between. -/

open Sys2Proof.Claims

namespace Sys2Proof.Machine

/-! ### An access of the host's program that breaks no rule -/

section
variable {s : State}

theorem State.hostDoes_readReg {r : Reg} {v : Word} (hv : s.regValue r = some v)
    (hb : s.status.busy = true → r.readableWhileBusy = true) (p : List HostStmt) :
    s.hostDoes (.readReg r.offset 32) p = { s with program := p, trace := s.trace ++ [.reg r v] } :=
  State.hostAccess_readReg (s := { s with program := p }) (by cases r <;> exact hv) hb

theorem State.hostDoes_readOut {a : Nat} {v : Byte} (hv : s.outByte a = some v) (ha : a < Config.outCap)
    (hb : s.status.busy = false) (p : List HostStmt) :
    s.hostDoes (.readOut a 8) p = { s with program := p, trace := s.trace ++ [.outByte a v] } :=
  State.hostAccess_readOut (s := { s with program := p }) hv ha hb

theorem State.hostDoes_writeIn {a : Nat} (hb : s.status.busy = false) (ha : a < Config.inCap) (v : Byte)
    (p : List HostStmt) : s.hostDoes (.writeIn a 8 v) p = { s with inBuf := s.inBuf.write a v, program := p } :=
  State.hostAccess_writeIn (s := { s with program := p }) hb ha v

theorem State.hostDoes_writeReg (hb : s.status.busy = false) (r : Reg) (w : Word) (p : List HostStmt) :
    s.hostDoes (.writeReg r.offset 32 w) p = { s with program := p }.writeReg r w :=
  State.hostAccess_writeReg (s := { s with program := p }) hb

end

/-! ### The copy, byte by byte -/

/-- The host moves alone, and OUT holds a result of `n` bytes that IN can hold. -/
structure State.Copyable (s : State) (n : Word) : Prop where
  clean : s.clean
  alone : s.turns = []
  idle : s.status.busy = false
  valid : s.status.oValid = true
  len : s.outLen = some n
  inFits : n.toNat ≤ Config.inCap
  outFits : n.toNat ≤ Config.outCap
  held : ∀ a < n.toNat, (s.outBuf.read a).isSome = true

/-- With no turns given and nothing pending, a step is the host's turn. -/
theorem step_alone {s : State} (hs : s.clean) (ht : s.turns = []) (hb : s.status.busy = false) :
    step s = .next s.hostTurn := by
  have hmover : s.mover = .host := by rw [State.mover, ht, hb]; rfl
  have htake : s.takeTurn = s := by
    rw [State.takeTurn, ht, List.tail_nil, ← ht]
  rw [step_clean hs, State.turn_host hmover, htake]

section
variable {s : State} {n : Word} (h : s.Copyable n)
include h

theorem State.Copyable.step_eq : step s = .next s.hostTurn :=
  step_alone h.clean h.alone h.idle

/-- What the copy writes does not disturb the result it copies. -/
theorem State.Copyable.withCopy (m : Memory) (p : List HostStmt) (tr : List Observation) :
    { s with inBuf := m, program := p, trace := tr }.Copyable n :=
  { h with }

/-- One byte takes two steps: the read of OUT and the write of IN. -/
theorem State.Copyable.run_byte {a : Nat} {rest : List HostStmt} (hp : s.program = .copyFrom a n.toNat :: rest)
    (ha : a < n.toNat) : ∃ v, s.outBuf.read a = some v ∧ ∀ k, run (k + 2) s =
      run k { s with inBuf := s.inBuf.write a v, program := .copyFrom (a + 1) n.toNat :: rest,
                     trace := s.trace ++ [.outByte a v] } := by
  obtain ⟨v, hv⟩ := Option.isSome_iff_exists.1 (h.held a ha)
  have hbyte : s.outByte a = some v := (State.outByte_of_lt h.valid h.len ha).trans hv
  refine ⟨v, hv, fun k => ?_⟩
  have hread : s.hostTurn = { s with program := .wrb a v :: .copyFrom (a + 1) n.toNat :: rest,
                                     trace := s.trace ++ [.outByte a v] } := by
    rw [State.hostTurn_copyFrom hp ha, hbyte]
    exact State.hostDoes_readOut hbyte (ha.trans_le h.outFits) h.idle _
  have hnext := h.withCopy s.inBuf (.wrb a v :: .copyFrom (a + 1) n.toNat :: rest) (s.trace ++ [.outByte a v])
  rw [run_next h.step_eq, hread, run_next hnext.step_eq, State.hostTurn_access rfl]
  exact congrArg (run k) (State.hostDoes_writeIn hnext.idle (ha.trans_le h.inFits) v _)

end

/-- The copy of the last `m` bytes, and the write of IN_LEN. -/
theorem State.Copyable.run_copyFrom {n : Word} {rest : List HostStmt} (m : Nat) {s : State} {a : Nat} (h : s.Copyable n)
    (hp : s.program = .copyFrom a n.toNat :: rest) (hm : a + m = n.toNat) :
    ∃ t, run (2 * m + 1) s = .next t ∧ (∀ k, a ≤ k → k < n.toNat → t.inBuf.read k = s.outBuf.read k) ∧
      (∀ k, k < a ∨ n.toNat ≤ k → t.inBuf.read k = s.inBuf.read k) ∧
      t = { s with inBuf := t.inBuf, inLen := n, program := rest, trace := t.trace } := by
  induction m generalizing s a with
  | zero =>
    have hdone : s.hostTurn = { s with inLen := n, program := rest } := by
      rw [State.hostTurn_copyFrom_end hp (by omega), BitVec.ofNat_toNat, BitVec.setWidth_eq]
      exact State.hostDoes_writeReg h.idle .inLen n rest
    refine ⟨_, (run_next h.step_eq 0).trans (congrArg Host.Outcome.next hdone), fun k hk hk' => ?_, fun k _ => rfl, rfl⟩
    omega
  | succ m ih =>
    obtain ⟨v, hv, hrun⟩ := h.run_byte hp (by omega)
    obtain ⟨t, ht, hcopied, hkept, hframe⟩ := ih (a := a + 1) (h.withCopy _ _ _) rfl (by omega)
    refine ⟨t, (hrun (2 * m + 1)).trans ht, fun k hk hk' => ?_, fun k hk => ?_, hframe⟩
    · obtain rfl | hlt := hk.eq_or_lt
      · rw [hkept a (.inl (Nat.lt_succ_self a)), Memory.read_write_same, hv]
      · exact hcopied k hlt hk'
    · rw [hkept k (by omega), Memory.read_write_other _ v (by omega)]

end Sys2Proof.Machine

namespace Sys2Proof.Proofs

open Sys2Proof.Machine

/-- Settles O49: COPYOUT reads OUT_LEN, and then copies from byte 0 up. -/
theorem copyOutCopiesTheResult : Obligations.CopyOutCopiesTheResult := by
  intro s rest n hs ht hb hp hvalid hlen hin hout hheld
  have h : s.Copyable n := ⟨hs, ht, hb, hvalid, hlen, hin, hout, hheld⟩
  have hvalue : s.regValue .outLen = some n := by simp [State.regValue, hvalid, hlen]
  have hstart : s.hostTurn = { s with program := .copyFrom 0 n.toNat :: rest, trace := s.trace ++ [.reg .outLen n] } := by
    rw [State.hostTurn_copyOut hp, hvalue]
    exact State.hostDoes_readReg hvalue (by simp [hb]) _
  obtain ⟨t, hrun, hcopied, hkept, hframe⟩ := (h.withCopy s.inBuf _ _).run_copyFrom n.toNat rfl (Nat.zero_add _)
  refine ⟨t, ((run_next h.step_eq _).trans (congrArg _ hstart)).trans hrun, fun k hk => hcopied k (Nat.zero_le k) hk,
    fun k hk => hkept k (.inr hk), hframe⟩

end Sys2Proof.Proofs
end
